-- ==== Sys2Proof/Word.lean ====
section
/-! DEFINITION. The word types of the block: bytes, 32-bit rate-spec words, and byte strings
(spec/00_scope.md R9, R12). -/

namespace Sys2Proof

/-- Eight bits: a descriptor byte, a payload byte, an octet (R9). -/
abbrev Byte := BitVec 8

/-- A packed 32-bit rate-spec word (R8 `W_RSPEC`). -/
abbrev Word := BitVec 32

/-- R12: a string is a finite sequence of bytes, with no terminator and no length before it. -/
abbrev Str := List Byte

/-- R12: a string literal of a rule stands for exactly its ASCII codes. -/
def ascii (s : String) : Str := s.toList.map fun c => BitVec.ofNat 8 c.toNat

end Sys2Proof
end

