-- ==== Sys2Proof/Syntax.lean ====
section
/-! DEFINITION. The requests of the block as syntax: one constructor of `Instr` for every row of
spec/opcode_table.json. The nine operations are the op codes of spec/30_encoding.md R81. The other rows are
field-selected classes: an operation whose operand word or octet has the fixed bits of that class (R93, R95, R97,
R100). A class constructor carries exactly the bits its row leaves free. -/

namespace Sys2Proof

/-- R87: the four rate encodings, in code order 0 to 3. -/
inductive RateEnc where
  | legacy
  | ht
  | vht
  | he
  deriving DecidableEq, Repr

/-- R38: the operand record of RSPEC.ENCODE. -/
structure RsParams where
  enc   : RateEnc
  rate  : BitVec 7
  mcs   : BitVec 4
  nss   : BitVec 4
  txexp : BitVec 2
  bw    : BitVec 3
  stbc  : Bool
  ldpc  : Bool
  sgi   : Bool
  dcm   : Bool
  heGi  : BitVec 2
  erEn  : Bool
  er106 : Bool
  deriving DecidableEq, Repr

/-- R172: "all-zero RsParams". -/
def RsParams.zero : RsParams :=
  ⟨.legacy, 0, 0, 0, 0, 0, false, false, false, false, 0, false, false⟩

/-- R39: the operand record of TWT.SETUP, all of it but `setup_cmd`, which stands beside it in `Instr` because the
rows SETUP_CMD.* fix it. -/
structure TwtParams where
  ctrl       : Byte
  dialog     : Byte
  exponent   : BitVec 5
  mantissa   : BitVec 16
  minWake    : Byte
  twt        : BitVec 64
  channel    : Byte
  requestor  : Bool
  trigger    : Bool
  implicit   : Bool
  flowType   : Bool
  protection : Bool
  flowId     : BitVec 3
  deriving DecidableEq, Repr

/-- The requests. Constructor, row of spec/opcode_table.json, and rule of its semantics. -/
inductive Instr where
  /-- RSPEC.ENCODE, op 0x01 (R122) -/
  | rspecEncode (p : RsParams)
  /-- RSPEC.DECODE, op 0x02 (R131) -/
  | rspecDecode (w : Word)
  /-- RSPEC.PARSETOK, op 0x03 (R162) -/
  | rspecParsetok (t : Str)
  /-- RSPEC.PARSECMD, op 0x04 (R172) -/
  | rspecParsecmd (args : List Str)
  /-- TWT.CTRLMAP, op 0x10 (R202) -/
  | twtCtrlmap (o : Byte)
  /-- TWT.SETUP, op 0x11 (R210) -/
  | twtSetup (cmd : Byte) (p : TwtParams)
  /-- TWT.TDMAP, op 0x12 (R220) -/
  | twtTdmap (f : Byte)
  /-- TWT.TEARDOWN, op 0x13 (R223) -/
  | twtTeardown (f : Byte)
  /-- TWT.PROFILE, op 0x14 (R251): the profile code and the band code of R101, as the bytes given -/
  | twtProfile (pr bd : Byte)
  /-- RSPEC_WORD.AUTO (R92, R93): RSPEC.DECODE of a word whose only free bits are `txexp` -/
  | wordAuto (txexp : BitVec 2)
  /-- RSPEC_WORD.LEGACY (R93): RSPEC.DECODE of the word `hi ++ 0 ++ lo` that is not AUTO -/
  | wordLegacy (hi : BitVec 6) (lo : BitVec 24)
  /-- RSPEC_WORD.HT (R93): RSPEC.DECODE of the word `hi ++ 1 ++ lo` -/
  | wordHt (hi : BitVec 6) (lo : BitVec 24)
  /-- RSPEC_WORD.VHT (R93): RSPEC.DECODE of the word `hi ++ 2 ++ lo` -/
  | wordVht (hi : BitVec 6) (lo : BitVec 24)
  /-- RSPEC_WORD.HE (R93): RSPEC.DECODE of the word `hi ++ 3 ++ lo` -/
  | wordHe (hi : BitVec 6) (lo : BitVec 24)
  /-- TWT_CTRL.NEGO.Individual (R95): TWT.CTRLMAP of the octet `hi ++ 0 ++ lo` -/
  | ctrlIndividual (hi : BitVec 4) (lo : BitVec 2)
  /-- TWT_CTRL.NEGO.WakeTBTT (R95): TWT.CTRLMAP of the octet `hi ++ 1 ++ lo` -/
  | ctrlWakeTbtt (hi : BitVec 4) (lo : BitVec 2)
  /-- TWT_CTRL.NEGO.BroadcastInBeacon (R95): TWT.CTRLMAP of the octet `hi ++ 2 ++ lo` -/
  | ctrlBroadcastInBeacon (hi : BitVec 4) (lo : BitVec 2)
  /-- TWT_CTRL.NEGO.BroadcastMembership (R95): TWT.CTRLMAP of the octet `hi ++ 3 ++ lo` -/
  | ctrlBroadcastMembership (hi : BitVec 4) (lo : BitVec 2)
  /-- TWT_TD.NEGO.Individual (R100): TWT.TDMAP of the octet `hi ++ 0 ++ lo` -/
  | tdIndividual (hi : BitVec 1) (lo : BitVec 5)
  /-- TWT_TD.NEGO.WakeTBTT (R100): TWT.TDMAP of the octet `hi ++ 1 ++ lo` -/
  | tdWakeTbtt (hi : BitVec 1) (lo : BitVec 5)
  /-- TWT_TD.NEGO.BroadcastInBeacon (R100): TWT.TDMAP of the octet `hi ++ 2 ++ lo` -/
  | tdBroadcastInBeacon (hi : BitVec 1) (lo : BitVec 5)
  /-- TWT_TD.NEGO.BroadcastMembership (R100): TWT.TDMAP of the octet `hi ++ 3 ++ lo` -/
  | tdBroadcastMembership (hi : BitVec 1) (lo : BitVec 5)
  /-- SETUP_CMD.Request (R97): TWT.SETUP with `setup_cmd` 0 -/
  | cmdRequest (p : TwtParams)
  /-- SETUP_CMD.Suggest (R97): TWT.SETUP with `setup_cmd` 1 -/
  | cmdSuggest (p : TwtParams)
  /-- SETUP_CMD.Demand (R97): TWT.SETUP with `setup_cmd` 2 -/
  | cmdDemand (p : TwtParams)
  /-- SETUP_CMD.Grouping (R97): TWT.SETUP with `setup_cmd` 3 -/
  | cmdGrouping (p : TwtParams)
  /-- SETUP_CMD.Accept (R97): TWT.SETUP with `setup_cmd` 4 -/
  | cmdAccept (p : TwtParams)
  /-- SETUP_CMD.Alternate (R97): TWT.SETUP with `setup_cmd` 5 -/
  | cmdAlternate (p : TwtParams)
  /-- SETUP_CMD.Dictate (R97): TWT.SETUP with `setup_cmd` 6 -/
  | cmdDictate (p : TwtParams)
  /-- SETUP_CMD.Reject (R97): TWT.SETUP with `setup_cmd` 7 -/
  | cmdReject (p : TwtParams)
  deriving DecidableEq, Repr

end Sys2Proof
end

