-- ==== Sys2Proof/WellFormed.lean ====
section
/-! DEFINITION. Which instructions have an encoding. Operand widths are types (spec/30_encoding.md R82), so the
checks left are the length bytes of the two variable layouts (R83) and the one class whose row is taken only when
an earlier row does not match (R93). -/

namespace Sys2Proof

/-- R83: a length byte holds 0 to 255. -/
def fitsLengthByte (n : Nat) : Bool := n ≤ 255

/-- R92: the free bits `hi`, `lo` of a LEGACY word are not all zero outside `txexp` (bits 9:8), so the word is not
the AUTO word. -/
def legacyNotAuto (hi : BitVec 6) (lo : BitVec 24) : Bool := !(hi == 0 && lo &&& 0xFFFCFF#24 == 0)

/-- The instruction has an encoding that stands for it. -/
def Instr.wellFormed : Instr → Bool
  | .rspecEncode _ => true
  | .rspecDecode _ => true
  | .rspecParsetok t => fitsLengthByte t.length
  | .rspecParsecmd args => fitsLengthByte args.length && args.all fun a => fitsLengthByte a.length
  | .twtCtrlmap _ => true
  | .twtSetup _ _ => true
  | .twtTdmap _ => true
  | .twtTeardown _ => true
  | .twtProfile _ _ => true
  | .wordAuto _ => true
  | .wordLegacy hi lo => legacyNotAuto hi lo
  | .wordHt _ _ => true
  | .wordVht _ _ => true
  | .wordHe _ _ => true
  | .ctrlIndividual _ _ => true
  | .ctrlWakeTbtt _ _ => true
  | .ctrlBroadcastInBeacon _ _ => true
  | .ctrlBroadcastMembership _ _ => true
  | .tdIndividual _ _ => true
  | .tdWakeTbtt _ _ => true
  | .tdBroadcastInBeacon _ _ => true
  | .tdBroadcastMembership _ _ => true
  | .cmdRequest _ => true
  | .cmdSuggest _ => true
  | .cmdDemand _ => true
  | .cmdGrouping _ => true
  | .cmdAccept _ => true
  | .cmdAlternate _ => true
  | .cmdDictate _ => true
  | .cmdReject _ => true

end Sys2Proof
end

