-- ==== Sys2Proof/Decode.lean ====
section
/-! DEFINITION. The request descriptor (spec/30_encoding.md §1 and §2): the decoder, total on any bytes and rejecting
by name, then the encoder, written from the same layouts; the field-selected classes of the opcode table (R93, R95,
R97, R100); and the reading of a row's own bits that the host asks for. -/

namespace Sys2Proof

/-! ### Bit fields and byte order -/

/-- R9: `b[lo + n - 1 : lo]`. -/
def field {w : Nat} (b : BitVec w) (lo n : Nat) : BitVec n := b.extractLsb' lo n

/-- R9: the value of width `w` that is zero but for the field `v` at bit `lo` upward: `zext_w(v) << lo`, as R96 and R131
place a field. -/
def place {n : Nat} (w : Nat) (v : BitVec n) (lo : Nat) : BitVec w := v.setWidth w <<< lo

/-- One bit as a field. -/
def flag (b : Bool) : BitVec 1 := BitVec.ofBool b

/-- R11 `LE16`. -/
def le16 (v : BitVec 16) : List Byte := [field v 0 8, field v 8 8]

/-- The four bytes of a 32-bit value, the low byte first (R65, R66). -/
def le32 (v : Word) : List Byte := [field v 0 8, field v 8 8, field v 16 8, field v 24 8]

/-- R11 `LE64`. -/
def le64 (v : BitVec 64) : List Byte :=
  [field v 0 8, field v 8 8, field v 16 8, field v 24 8, field v 32 8, field v 40 8, field v 48 8, field v 56 8]

/-- The 16-bit value of two bytes, the low byte first (R66). -/
def ofLe16 (b0 b1 : Byte) : BitVec 16 := place 16 b0 0 ||| place 16 b1 8

/-- R131: `desc[1] | desc[2] << 8 | desc[3] << 16 | desc[4] << 24`. -/
def ofLe32 (b0 b1 b2 b3 : Byte) : Word := place 32 b0 0 ||| place 32 b1 8 ||| place 32 b2 16 ||| place 32 b3 24

/-- The 64-bit value of eight bytes, the low byte first (R66). -/
def ofLe64 (b0 b1 b2 b3 b4 b5 b6 b7 : Byte) : BitVec 64 :=
  place 64 b0 0 ||| place 64 b1 8 ||| place 64 b2 16 ||| place 64 b3 24 ||| place 64 b4 32 ||| place 64 b5 40 |||
    place 64 b6 48 ||| place 64 b7 56

/-! ### Descriptors to instructions -/

/-- What the framing checks of a request reject (R80, R81, R84). -/
inductive DecodeError where
  /-- an empty descriptor, or one whose length is not its op code's (R80, R85) -/
  | malformed
  /-- an op code outside the table of R81 -/
  | illegalOp
  /-- a reserved descriptor bit is 1 (R84) -/
  | reservedValue
  deriving DecidableEq, Repr

/-- R87: the encoding of a 2-bit code. -/
def RateEnc.ofCode (c : BitVec 2) : RateEnc :=
  match c with
  | 0#2 => .legacy
  | 1#2 => .ht
  | 2#2 => .vht
  | 3#2 => .he

/-- R87: the 2-bit code of an encoding. -/
def RateEnc.code : RateEnc → BitVec 2
  | .legacy => 0#2
  | .ht => 1#2
  | .vht => 2#2
  | .he => 3#2

/-- R82, RSPEC.ENCODE: a bit marked `res` is 1. -/
def encodeReserved (b1 b2 b4 b5 : Byte) : Bool :=
  field b1 2 6 != 0 || b2.getLsbD 7 || b4.getLsbD 7 || field b5 6 2 != 0

/-- R82, RSPEC.ENCODE: the operand record of bytes 1 to 5. -/
def rsParamsOf (b1 b2 b3 b4 b5 : Byte) : RsParams where
  enc   := RateEnc.ofCode (field b1 0 2)
  rate  := field b2 0 7
  mcs   := field b3 0 4
  nss   := field b3 4 4
  txexp := field b4 0 2
  bw    := field b4 2 3
  heGi  := field b4 5 2
  stbc  := b5.getLsbD 0
  ldpc  := b5.getLsbD 1
  sgi   := b5.getLsbD 2
  dcm   := b5.getLsbD 3
  erEn  := b5.getLsbD 4
  er106 := b5.getLsbD 5

/-- R82, TWT.SETUP: a bit marked `res` is 1. -/
def setupReserved (b4 b17 b18 : Byte) : Bool :=
  field b4 5 3 != 0 || field b17 5 3 != 0 || field b18 3 5 != 0

/-- R82, op 0x01, length 6. -/
def decodeEncode : List Byte → Except DecodeError Instr
  | [b1, b2, b3, b4, b5] =>
    if encodeReserved b1 b2 b4 b5 then .error .reservedValue else .ok (.rspecEncode (rsParamsOf b1 b2 b3 b4 b5))
  | _ => .error .malformed

/-- R82, op 0x02, length 5. -/
def decodeDecode : List Byte → Except DecodeError Instr
  | [b1, b2, b3, b4] => .ok (.rspecDecode (ofLe32 b1 b2 b3 b4))
  | _ => .error .malformed

/-- R83, op 0x03: the length byte `L`, then exactly `L` token bytes. -/
def decodeParsetok : List Byte → Except DecodeError Instr
  | [] => .error .malformed
  | l :: t => if t.length = l.toNat then .ok (.rspecParsetok t) else .error .malformed

/-- R83, op 0x04: `n` entries, each a length byte and that many bytes, and nothing after them. -/
def splitArgs : Nat → List Byte → Option (List Str)
  | 0, [] => some []
  | 0, _ :: _ => none
  | _ + 1, [] => none
  | n + 1, l :: r =>
    if l.toNat ≤ r.length then (splitArgs n (r.drop l.toNat)).map fun as => r.take l.toNat :: as else none

/-- R83, op 0x04: the argument count `N`, then `N` entries. -/
def decodeParsecmd : List Byte → Except DecodeError Instr
  | [] => .error .malformed
  | n :: r =>
    match splitArgs n.toNat r with
    | some args => .ok (.rspecParsecmd args)
    | none => .error .malformed

/-- A one-byte operand (R82, the layouts of length 2). -/
def decodeOctet (f : Byte → Instr) : List Byte → Except DecodeError Instr
  | [b] => .ok (f b)
  | _ => .error .malformed

/-- R82, op 0x11, length 19. -/
def decodeSetup : List Byte → Except DecodeError Instr
  | [b1, b2, b3, b4, b5, b6, b7, b8, b9, b10, b11, b12, b13, b14, b15, b16, b17, b18] =>
    if setupReserved b4 b17 b18 then .error .reservedValue
    else .ok (.twtSetup b3
      { ctrl       := b1
        dialog     := b2
        exponent   := field b4 0 5
        mantissa   := ofLe16 b5 b6
        minWake    := b7
        twt        := ofLe64 b8 b9 b10 b11 b12 b13 b14 b15
        channel    := b16
        requestor  := b17.getLsbD 0
        trigger    := b17.getLsbD 1
        implicit   := b17.getLsbD 2
        flowType   := b17.getLsbD 3
        protection := b17.getLsbD 4
        flowId     := field b18 0 3 })
  | _ => .error .malformed

/-- R82, op 0x14, length 3. The codes themselves are TWT.PROFILE's to check (R251). -/
def decodeProfile : List Byte → Except DecodeError Instr
  | [pr, bd] => .ok (.twtProfile pr bd)
  | _ => .error .malformed

/-- R81: the op code selects the layout; every other value is illegal and its length is not checked. -/
def decodeOp (op : Byte) (rest : List Byte) : Except DecodeError Instr :=
  match op with
  | 0x01#8 => decodeEncode rest
  | 0x02#8 => decodeDecode rest
  | 0x03#8 => decodeParsetok rest
  | 0x04#8 => decodeParsecmd rest
  | 0x10#8 => decodeOctet .twtCtrlmap rest
  | 0x11#8 => decodeSetup rest
  | 0x12#8 => decodeOctet .twtTdmap rest
  | 0x13#8 => decodeOctet .twtTeardown rest
  | 0x14#8 => decodeProfile rest
  | _ => .error .illegalOp

/-- The decoder of a request descriptor, in the check order of R267 items 1 to 4. -/
def decode : List Byte → Except DecodeError Instr
  | [] => .error .malformed
  | op :: rest => decodeOp op rest

/-! ### The field-selected classes of the opcode table -/

/-- R93: the word a RSPEC_WORD class stands for, `encoding` in bits 25:24. -/
def wordOf (hi : BitVec 6) (code : BitVec 2) (lo : BitVec 24) : Word :=
  place 32 hi 26 ||| place 32 code 24 ||| place 32 lo 0

/-- R92: the AUTO word with the given `txexp`. -/
def autoWord (txexp : BitVec 2) : Word := place 32 txexp 8

/-- R95: the control octet of a class, `nego_code` in bits 3:2. -/
def ctrlOctetOf (hi : BitVec 4) (code lo : BitVec 2) : Byte :=
  place 8 hi 4 ||| place 8 code 2 ||| place 8 lo 0

/-- R100: the teardown flags octet of a class, `nego_code` in bits 6:5. -/
def tdOctetOf (hi : BitVec 1) (code : BitVec 2) (lo : BitVec 5) : Byte :=
  place 8 hi 7 ||| place 8 code 5 ||| place 8 lo 0

/-- R92: the word is zero outside `txexp`. -/
def isAuto (w : Word) : Bool := w &&& 0xFFFFFCFF#32 == 0

/-- R93: the first class in the list that the word matches, with the bits the class leaves free. -/
def classOfWord (w : Word) : Instr :=
  if isAuto w then .wordAuto (field w 8 2)
  else
    match field w 24 2 with
    | 0#2 => .wordLegacy (field w 26 6) (field w 0 24)
    | 1#2 => .wordHt (field w 26 6) (field w 0 24)
    | 2#2 => .wordVht (field w 26 6) (field w 0 24)
    | 3#2 => .wordHe (field w 26 6) (field w 0 24)

/-- R95: the negotiation-type class of a control octet. -/
def classOfCtrl (o : Byte) : Instr :=
  match field o 2 2 with
  | 0#2 => .ctrlIndividual (field o 4 4) (field o 0 2)
  | 1#2 => .ctrlWakeTbtt (field o 4 4) (field o 0 2)
  | 2#2 => .ctrlBroadcastInBeacon (field o 4 4) (field o 0 2)
  | 3#2 => .ctrlBroadcastMembership (field o 4 4) (field o 0 2)

/-- R100: the negotiation-type class of a teardown flags octet. -/
def classOfTd (f : Byte) : Instr :=
  match field f 5 2 with
  | 0#2 => .tdIndividual (field f 7 1) (field f 0 5)
  | 1#2 => .tdWakeTbtt (field f 7 1) (field f 0 5)
  | 2#2 => .tdBroadcastInBeacon (field f 7 1) (field f 0 5)
  | 3#2 => .tdBroadcastMembership (field f 7 1) (field f 0 5)

/-- R97: the setup-command class of a `setup_cmd` byte; the values 8 to 255 are in no class. -/
def classOfSetupCmd (cmd : Byte) (p : TwtParams) : Option Instr :=
  match cmd with
  | 0#8 => some (.cmdRequest p)
  | 1#8 => some (.cmdSuggest p)
  | 2#8 => some (.cmdDemand p)
  | 3#8 => some (.cmdGrouping p)
  | 4#8 => some (.cmdAccept p)
  | 5#8 => some (.cmdAlternate p)
  | 6#8 => some (.cmdDictate p)
  | 7#8 => some (.cmdReject p)
  | _ => none

/-- The second-level decode: the class row that an operation's operand falls in, where the table has one. -/
def classOf : Instr → Option Instr
  | .rspecDecode w => some (classOfWord w)
  | .twtCtrlmap o => some (classOfCtrl o)
  | .twtSetup cmd p => classOfSetupCmd cmd p
  | .twtTdmap f => some (classOfTd f)
  | _ => none

/-- The operation an instruction is a request for: a class row is its operation on an operand of that class, and one
of the nine operations is itself. -/
def operationOf : Instr → Instr
  | .wordAuto txexp => .rspecDecode (autoWord txexp)
  | .wordLegacy hi lo => .rspecDecode (wordOf hi 0#2 lo)
  | .wordHt hi lo => .rspecDecode (wordOf hi 1#2 lo)
  | .wordVht hi lo => .rspecDecode (wordOf hi 2#2 lo)
  | .wordHe hi lo => .rspecDecode (wordOf hi 3#2 lo)
  | .ctrlIndividual hi lo => .twtCtrlmap (ctrlOctetOf hi 0#2 lo)
  | .ctrlWakeTbtt hi lo => .twtCtrlmap (ctrlOctetOf hi 1#2 lo)
  | .ctrlBroadcastInBeacon hi lo => .twtCtrlmap (ctrlOctetOf hi 2#2 lo)
  | .ctrlBroadcastMembership hi lo => .twtCtrlmap (ctrlOctetOf hi 3#2 lo)
  | .tdIndividual hi lo => .twtTdmap (tdOctetOf hi 0#2 lo)
  | .tdWakeTbtt hi lo => .twtTdmap (tdOctetOf hi 1#2 lo)
  | .tdBroadcastInBeacon hi lo => .twtTdmap (tdOctetOf hi 2#2 lo)
  | .tdBroadcastMembership hi lo => .twtTdmap (tdOctetOf hi 3#2 lo)
  | .cmdRequest p => .twtSetup 0#8 p
  | .cmdSuggest p => .twtSetup 1#8 p
  | .cmdDemand p => .twtSetup 2#8 p
  | .cmdGrouping p => .twtSetup 3#8 p
  | .cmdAccept p => .twtSetup 4#8 p
  | .cmdAlternate p => .twtSetup 5#8 p
  | .cmdDictate p => .twtSetup 6#8 p
  | .cmdReject p => .twtSetup 7#8 p
  | .rspecEncode p => .rspecEncode p
  | .rspecDecode w => .rspecDecode w
  | .rspecParsetok t => .rspecParsetok t
  | .rspecParsecmd args => .rspecParsecmd args
  | .twtCtrlmap o => .twtCtrlmap o
  | .twtSetup cmd p => .twtSetup cmd p
  | .twtTdmap f => .twtTdmap f
  | .twtTeardown f => .twtTeardown f
  | .twtProfile pr bd => .twtProfile pr bd

/-! ### Instructions to descriptors -/

/-- R81: the op code of a request; a class row has its operation's. -/
def opcodeOf : Instr → Byte
  | .rspecEncode _ => 0x01#8
  | .rspecDecode _ | .wordAuto _ | .wordLegacy _ _ | .wordHt _ _ | .wordVht _ _ | .wordHe _ _ => 0x02#8
  | .rspecParsetok _ => 0x03#8
  | .rspecParsecmd _ => 0x04#8
  | .twtCtrlmap _ | .ctrlIndividual _ _ | .ctrlWakeTbtt _ _ | .ctrlBroadcastInBeacon _ _
  | .ctrlBroadcastMembership _ _ => 0x10#8
  | .twtSetup _ _ | .cmdRequest _ | .cmdSuggest _ | .cmdDemand _ | .cmdGrouping _ | .cmdAccept _ | .cmdAlternate _
  | .cmdDictate _ | .cmdReject _ => 0x11#8
  | .twtTdmap _ | .tdIndividual _ _ | .tdWakeTbtt _ _ | .tdBroadcastInBeacon _ _
  | .tdBroadcastMembership _ _ => 0x12#8
  | .twtTeardown _ => 0x13#8
  | .twtProfile _ _ => 0x14#8

/-- R82, RSPEC.ENCODE: bytes 1 to 5; the `res` bits are 0. -/
def encodeRsParams (p : RsParams) : List Byte :=
  [ place 8 p.enc.code 0,
    place 8 p.rate 0,
    place 8 p.mcs 0 ||| place 8 p.nss 4,
    place 8 p.txexp 0 ||| place 8 p.bw 2 ||| place 8 p.heGi 5,
    place 8 (flag p.stbc) 0 ||| place 8 (flag p.ldpc) 1 ||| place 8 (flag p.sgi) 2 ||| place 8 (flag p.dcm) 3 |||
      place 8 (flag p.erEn) 4 ||| place 8 (flag p.er106) 5 ]

/-- R82, TWT.SETUP: bytes 1 to 18. -/
def encodeSetup (cmd : Byte) (p : TwtParams) : List Byte :=
  [p.ctrl, p.dialog, cmd, place 8 p.exponent 0] ++ le16 p.mantissa ++ [p.minWake] ++ le64 p.twt ++
  [ p.channel,
    place 8 (flag p.requestor) 0 ||| place 8 (flag p.trigger) 1 ||| place 8 (flag p.implicit) 2 |||
      place 8 (flag p.flowType) 3 ||| place 8 (flag p.protection) 4,
    place 8 p.flowId 0 ]

/-- R83: one entry of RSPEC.PARSECMD. -/
def encodeArg (a : Str) : List Byte := BitVec.ofNat 8 a.length :: a

/-- The operand bytes of an instruction (R82, R83); a class row's operand has the row's fixed bits. -/
def operandBytes : Instr → List Byte
  | .rspecEncode p => encodeRsParams p
  | .rspecDecode w => le32 w
  | .rspecParsetok t => BitVec.ofNat 8 t.length :: t
  | .rspecParsecmd args => BitVec.ofNat 8 args.length :: args.flatMap encodeArg
  | .twtCtrlmap o => [o]
  | .twtSetup cmd p => encodeSetup cmd p
  | .twtTdmap f => [f]
  | .twtTeardown f => [f]
  | .twtProfile pr bd => [pr, bd]
  | .wordAuto txexp => le32 (autoWord txexp)
  | .wordLegacy hi lo => le32 (wordOf hi 0#2 lo)
  | .wordHt hi lo => le32 (wordOf hi 1#2 lo)
  | .wordVht hi lo => le32 (wordOf hi 2#2 lo)
  | .wordHe hi lo => le32 (wordOf hi 3#2 lo)
  | .ctrlIndividual hi lo => [ctrlOctetOf hi 0#2 lo]
  | .ctrlWakeTbtt hi lo => [ctrlOctetOf hi 1#2 lo]
  | .ctrlBroadcastInBeacon hi lo => [ctrlOctetOf hi 2#2 lo]
  | .ctrlBroadcastMembership hi lo => [ctrlOctetOf hi 3#2 lo]
  | .tdIndividual hi lo => [tdOctetOf hi 0#2 lo]
  | .tdWakeTbtt hi lo => [tdOctetOf hi 1#2 lo]
  | .tdBroadcastInBeacon hi lo => [tdOctetOf hi 2#2 lo]
  | .tdBroadcastMembership hi lo => [tdOctetOf hi 3#2 lo]
  | .cmdRequest p => encodeSetup 0#8 p
  | .cmdSuggest p => encodeSetup 1#8 p
  | .cmdDemand p => encodeSetup 2#8 p
  | .cmdGrouping p => encodeSetup 3#8 p
  | .cmdAccept p => encodeSetup 4#8 p
  | .cmdAlternate p => encodeSetup 5#8 p
  | .cmdDictate p => encodeSetup 6#8 p
  | .cmdReject p => encodeSetup 7#8 p

/-- The descriptor of an instruction: the op code, then the operand bytes (R80). -/
def encode (i : Instr) : List Byte := opcodeOf i :: operandBytes i

/-! ### The pseudo-operations of R104 -/

/-- R104: RSPEC.AUTO. -/
def pseudoAuto : Instr := .rspecEncode RsParams.zero

/-- R104: TWT.TEARDOWN.ALL. -/
def pseudoTeardownAll : Instr := .twtTeardown 0x80#8

/-- R104: RSPEC.HE `<m>x<s>`, the two numerals given as their digits. -/
def pseudoHe (m s : Str) : Instr := .rspecParsecmd [ascii "-e", m ++ ascii "x" ++ s]

/-! ### The rows' own bits, for the host -/

/-- R85: the number of operand bytes of an op code with a fixed layout. -/
def fixedOperands (op : Byte) : Option Nat :=
  match op with
  | 0x01#8 => some 5
  | 0x02#8 => some 4
  | 0x10#8 => some 1
  | 0x11#8 => some 18
  | 0x12#8 => some 1
  | 0x13#8 => some 1
  | 0x14#8 => some 2
  | _ => none

/-- R81: the byte is an op code of the table. -/
def isOpcode (op : Byte) : Bool := (fixedOperands op).isSome || op == 0x03#8 || op == 0x04#8

/-- The first `n` bytes of the list, with zeros for the ones it has not. -/
def padTo (n : Nat) (l : List Byte) : List Byte := (l ++ List.replicate n 0#8).take n

/-- `n` entries of RSPEC.PARSECMD (R83), with zeros for the bytes that are missing. -/
def padArgs : Nat → List Byte → List Byte
  | 0, _ => []
  | n + 1, r => r.headD 0#8 :: padTo (r.headD 0#8).toNat r.tail ++ padArgs n (r.tail.drop (r.headD 0#8).toNat)

/-- The descriptor that starts with these bytes and whose later bytes are zero, as long as its op code asks (R85). -/
def padDescriptor : List Byte → List Byte
  | [] => []
  | op :: rest =>
    match fixedOperands op with
    | some n => op :: padTo n rest
    | none =>
      if op = 0x03#8 then op :: rest.headD 0#8 :: padTo (rest.headD 0#8).toNat rest.tail
      else if op = 0x04#8 then op :: rest.headD 0#8 :: padArgs (rest.headD 0#8).toNat rest.tail
      else op :: rest

/-- The bytes of a number of `n` bytes, the first word's low byte first. -/
def numberBytes : Nat → Nat → List Byte
  | 0, _ => []
  | n + 1, w => BitVec.ofNat 8 w :: numberBytes n (w / 256)

/-- The 8-bit class rows whose word is no op code, each as the request that carries the octet: TWT_CTRL.* rows as
TWT.CTRLMAP, TWT_TD.* rows as TWT.TDMAP, SETUP_CMD.* rows as TWT.SETUP with every other operand 0. -/
def classRowDescriptor (b : Byte) : Option (List Byte) :=
  match b with
  | 0x00#8 | 0x08#8 | 0x0C#8 => some [0x10#8, b]
  | 0x20#8 | 0x40#8 | 0x60#8 => some [0x12#8, b]
  | 0x05#8 | 0x06#8 | 0x07#8 => some (padDescriptor [0x11#8, 0#8, 0#8, b])
  | _ => none

/-- A row's word is a class row's: the 32-bit words are RSPEC_WORD rows, and an 8-bit word that is an op code is
the op code's row (log entry 9). -/
def isClassRow (nbits w : Nat) : Bool := nbits == 32 || (nbits == 8 && !isOpcode (BitVec.ofNat 8 w))

/-- The descriptor of the request that a row's word `w` of `nbits` bits stands for. -/
def tableDescriptor (nbits w : Nat) : List Byte :=
  if nbits = 32 then 0x02#8 :: le32 (BitVec.ofNat 32 w)
  else if isClassRow nbits w then (classRowDescriptor (BitVec.ofNat 8 w)).getD [BitVec.ofNat 8 w]
  else padDescriptor (numberBytes (nbits / 8) w)

/-- The instruction read from a row's word: the decoder's answer on its descriptor, and for a class row the class
that the operand falls in. -/
def decodeTableWord (nbits w : Nat) : Option Instr :=
  match decode (tableDescriptor nbits w) with
  | .error _ => none
  | .ok i => if isClassRow nbits w then classOf i else some i

end Sys2Proof
end

