-- ==== Sys2Proof/Config.lean ====
section
/-! DEFINITION. The configuration record CFG (spec/10_state.md R34) and the values the spec leaves open:
the OPEN parameters of spec/00_scope.md R8 as the block was built, and the draws of spec/20_memory.md R71 and
spec/70_reset_and_hazards.md R291. An `opaque` constant here has no body, so no proof can see its value. -/

namespace Sys2Proof

/-- Byte order of the four wire bytes of a rate-spec word (R65; `P_WIRE_ORDER` of R8). -/
inductive WireOrder where
  | le
  | be
  deriving DecidableEq, Repr, Inhabited

/-- The configuration record CFG of R34, one field per parameter. No request writes it. -/
structure Cfg where
  wireOrder   : WireOrder
  /-- the value of the ER tone bit that means 106 tones (R90) -/
  erTone106   : Bool
  lblStbc     : Str
  lblLdpc     : Str
  lblSgi      : Str
  lblDcm      : Str
  /-- `CFG.lbl_hegi[0]` to `CFG.lbl_hegi[3]` (R89) -/
  lblHegi0    : Str
  lblHegi1    : Str
  lblHegi2    : Str
  lblHegi3    : Str
  catS1g      : Byte
  actSetup    : Byte
  actTeardown : Byte
  eidTwt      : Byte
  deriving DecidableEq, Repr

/-- R12: every byte of the string is an ASCII code. -/
abbrev Str.isAscii (s : Str) : Prop := ∀ b ∈ s, b.toNat < 128

/-- R34: the legal values of CFG, which restrict only the labels ("any ASCII string"). -/
abbrev Cfg.legal (c : Cfg) : Prop :=
  Str.isAscii c.lblStbc ∧ Str.isAscii c.lblLdpc ∧ Str.isAscii c.lblSgi ∧ Str.isAscii c.lblDcm ∧
  Str.isAscii c.lblHegi0 ∧ Str.isAscii c.lblHegi1 ∧ Str.isAscii c.lblHegi2 ∧ Str.isAscii c.lblHegi3

/-! ### The built values of the OPEN parameters (R8), never fixed here (log entry 1) -/

/-- `P_WIRE_ORDER`, OPEN. -/
opaque Config.wireOrder : WireOrder
/-- `LBL_STBC`, OPEN, as 7-bit ASCII codes (R34 "any ASCII string"). -/
opaque Config.lblStbc : List (BitVec 7)
/-- `LBL_LDPC`, OPEN. -/
opaque Config.lblLdpc : List (BitVec 7)
/-- `LBL_SGI`, OPEN. -/
opaque Config.lblSgi : List (BitVec 7)
/-- `LBL_DCM`, OPEN. -/
opaque Config.lblDcm : List (BitVec 7)
/-- `LBL_HEGI[0]`, OPEN. -/
opaque Config.lblHegi0 : List (BitVec 7)
/-- `LBL_HEGI[1]`, OPEN. -/
opaque Config.lblHegi1 : List (BitVec 7)
/-- `LBL_HEGI[2]`, OPEN. -/
opaque Config.lblHegi2 : List (BitVec 7)
/-- `LBL_HEGI[3]`, OPEN. -/
opaque Config.lblHegi3 : List (BitVec 7)
/-- `P_CAT_S1G`, OPEN. -/
opaque Config.catS1g : Byte
/-- `P_ACT_TWT_SETUP`, OPEN. -/
opaque Config.actSetup : Byte
/-- `P_ACT_TWT_TEARDOWN`, OPEN. -/
opaque Config.actTeardown : Byte
/-- `P_EID_TWT`, OPEN. -/
opaque Config.eidTwt : Byte

/-- An ASCII string from its 7-bit codes. -/
def Config.ofAscii (l : List (BitVec 7)) : Str := l.map fun c => c.setWidth 8

/-- CFG as the block is built: the OPEN parameters are the opaque constants above, and `er_tone_106` is 1,
which R8 marks `decided`. -/
def Config.built : Cfg where
  wireOrder   := Config.wireOrder
  erTone106   := true
  lblStbc     := Config.ofAscii Config.lblStbc
  lblLdpc     := Config.ofAscii Config.lblLdpc
  lblSgi      := Config.ofAscii Config.lblSgi
  lblDcm      := Config.ofAscii Config.lblDcm
  lblHegi0    := Config.ofAscii Config.lblHegi0
  lblHegi1    := Config.ofAscii Config.lblHegi1
  lblHegi2    := Config.ofAscii Config.lblHegi2
  lblHegi3    := Config.ofAscii Config.lblHegi3
  catS1g      := Config.catS1g
  actSetup    := Config.actSetup
  actTeardown := Config.actTeardown
  eidTwt      := Config.eidTwt

/-- The draws (R71, R291): draw number `k`, as one bit. What it stands for is said where it is used: whether an
OutBuf byte took its new value, and which calls a request cut by reset had made (log entries 2 and 6). One such sequence
serves every requester's lane, by the lane's own counter (log entry 8). -/
opaque Config.drawBit : Nat → Bool

end Sys2Proof
end

