-- ==== Sys2Proof/Machine/State.lean ====
section
/-! DEFINITION. The state of the block as plain data (spec/10_state.md): the configuration record, the request and
response ports, the caller's output slice, and the two collaborator ports with the answers they have given. The
records of R40, R41 and R251 and the codes of spec/60_exceptions.md stand here as types; their numbers are in
Machine/Flags.lean. -/

namespace Sys2Proof.Machine

/-- R95, R201: the negotiation types. -/
inductive Nego where
  | individual
  | wakeTbtt
  | broadcastInBeacon
  | broadcastMembership
  deriving DecidableEq, Repr

/-- R40: the decomposition of the control octet. -/
structure TwtCtrl where
  ndpPaging         : Bool
  respPm            : Bool
  negoCode          : BitVec 2
  nego              : Nego
  infoFrameDisabled : Bool
  wakeDurUnit       : Bool
  reserved          : BitVec 2
  deriving DecidableEq, Repr

/-- R41: the decomposition of the teardown flags octet. -/
structure TwtTd where
  flowIdRaw : BitVec 3
  reserved  : BitVec 2
  negoCode  : BitVec 2
  nego      : Nego
  flowId    : BitVec 3
  all       : Bool
  deriving DecidableEq, Repr

/-- R251: what TWT.PROFILE selects. -/
inductive Selection where
  | setup (minWake : Byte) (mantissa : BitVec 16) (exponent : BitVec 5)
  | teardown (flags : Byte)
  deriving DecidableEq, Repr

/-- R35: the `result` of a response. -/
inductive Result where
  | none
  | word (w : Word)
  | string (s : Str)
  | pair (mcs nss : Nat)
  | payload (P : List Byte)
  | ctrl (c : TwtCtrl)
  | td (d : TwtTd)
  | selection (x : Selection)
  deriving DecidableEq, Repr

/-- R262: the VALIDATION sub-causes. -/
inductive ValidationCause where
  | setupCmd
  | negoType
  | tokEmpty
  | tokNoInteger
  | tokMcsRange
  | tokSeparator
  | tokNss
  | tokTrailing
  | cmdNoRate
  | cmdContradictory
  | cmdMissingArg
  | cmdMalformedArg
  | cmdRange
  | cmdGiWithoutE
  | cmdUnknownOption
  deriving DecidableEq, Repr

/-- R263: the TRANSPORT sub-causes. -/
inductive TransportCause where
  | notAssociated
  | txFailed
  deriving DecidableEq, Repr

/-- R264: the REFUSED sub-causes. -/
inductive RefusedCause where
  | precondition
  | unimplementedOption
  | unsettledForm
  | reservedValue
  | buffer
  deriving DecidableEq, Repr

/-- R261: the status of a response. -/
inductive Status where
  | ok
  | validation
  | unsupportedEncoding
  | transport
  | illegalOp
  | malformed
  | refused
  deriving DecidableEq, Repr

/-- R35, R261: a response. Each kind carries what its status allows: the views `status`, `sub` and `result` of
R35 are in Machine/Flags.lean. REFUSED is the model's own response (R11 `refuse`, R61, R70); R264 puts what a chip
does on such a request outside every claim, and `ChipStep` of Safety.lean leaves it open (log entry 3). -/
inductive Response where
  | ok (r : Result)
  | validation (c : ValidationCause)
  | unsupportedEncoding (s : Str)
  | transport (c : TransportCause)
  | illegalOp
  | malformed
  | refused (c : RefusedCause)
  deriving DecidableEq, Repr

/-- R35: a request `(desc, out_cap, tx_ctx)`. `txCtx` is opaque to the block, held as the bytes the
requester gave (log entry 15). -/
structure Request where
  desc   : List Byte
  outCap : Nat
  txCtx  : List Byte
  deriving DecidableEq, Repr

/-- The collaborator ports (R36, R37). -/
inductive Port where
  | assoc
  | tx
  deriving DecidableEq, Repr

/-- One call the block made on a collaborator port, as the collaborator sees it (R36, R37). -/
inductive PortCall where
  | assoc
  | tx (payload txCtx : List Byte)
  deriving DecidableEq, Repr

/-- R36: the answer of a Tx call. -/
inductive TxAnswer where
  | ok
  | fail
  deriving DecidableEq, Repr

/-- A request in progress whose collaborator call is outstanding (R44, R298): the port called, and the payload. -/
structure PendingCall where
  port    : Port
  payload : List Byte
  deriving DecidableEq, Repr

/-- R60, R63: OutBuf, byte-addressed from 0, as (index, byte) pairs with strictly rising indices. An index that is not
listed holds a byte of the caller's that the model was not given: it reads as no value (log entry 4). -/
abbrev Memory := List Host.Cell

/-- The state of the block and of its ports. -/
structure State where
  /-- R34: CFG, fixed when the block is built -/
  cfg          : Cfg
  /-- R35: the request on the request port, or none -/
  request      : Option Request
  /-- R35: the response port: the last response given, or none (log entry 11) -/
  response     : Option Response
  /-- R60: the caller's output slice of the current request -/
  outBuf       : Memory
  /-- R44: the collaborator call that is outstanding, or none -/
  call         : Option PendingCall
  /-- R36, R37: the calls the collaborators have had, oldest first (log entry 7) -/
  calls        : List PortCall
  /-- R37, R270: the answers the association collaborator gives, oldest first (the model's own input queue,
      log entry 7) -/
  assocAnswers : List Bool
  /-- R36, R270: the answers the transmitter gives, oldest first (the model's own input queue, log entry 7) -/
  txAnswers    : List TxAnswer
  /-- the number of draws taken so far (the model's own counter of `Config.drawBit`, log entry 2) -/
  draws        : Nat
  /-- R290, R291: reset has come and is not yet done (the model's own input, log entry 6) -/
  resetIn      : Bool
  deriving DecidableEq, Repr

/-- The reasons a step can fault. -/
inductive Fault where
  /-- A write at an OutBuf index at or past `out_cap`, which R60 and R63 say does not exist. Raised by
  `State.commit` and `State.drawOutBuf`. Safe: R61 checks the capacity first, so no run reaches it. -/
  | outsideOutBuf
  deriving DecidableEq, Repr

/-- The reasons an instruction can be refused. -/
inductive Refusal where
  /-- An instruction without a meaning, raised in an arm of `exec` alone. Safe. Every instruction has its meaning, so
  no arm raises it. -/
  | notModelled (mnemonic : String)
  deriving DecidableEq, Repr

/-- R44, R290: the state after reset. CFG holds its built value; no request, no response, no call outstanding; OutBuf is
the caller's and the model is given none of its bytes; no collaborator has been called or has answered. -/
def State.reset : State where
  cfg          := Config.built
  request      := none
  response     := none
  outBuf       := []
  call         := none
  calls        := []
  assocAnswers := []
  txAnswers    := []
  draws        := 0
  resetIn      := false

end Sys2Proof.Machine
end

