-- ==== Sys2Proof/Machine/Flags.lean ====
section
/-! DEFINITION. The block has no condition codes (spec/10_state.md R33): its statuses are the codes of a response
(spec/60_exceptions.md R261 to R264), and its flags are data bits of a rate-spec word, shown by RSPEC.DECODE as
suffixes (spec/40_ratespec_codec.md R130) and labels (spec/30_encoding.md R88, R89). -/

namespace Sys2Proof.Machine

/-! ### Status and sub-cause codes -/

/-- R261: the status codes. -/
def Status.code : Status → Byte
  | .ok => 0x00#8
  | .validation => 0x01#8
  | .unsupportedEncoding => 0x02#8
  | .transport => 0x03#8
  | .illegalOp => 0x04#8
  | .malformed => 0x05#8
  | .refused => 0xFF#8

/-- R262: the VALIDATION sub-cause codes. -/
def ValidationCause.code : ValidationCause → Byte
  | .setupCmd => 0x01#8
  | .negoType => 0x02#8
  | .tokEmpty => 0x10#8
  | .tokNoInteger => 0x11#8
  | .tokMcsRange => 0x12#8
  | .tokSeparator => 0x13#8
  | .tokNss => 0x14#8
  | .tokTrailing => 0x15#8
  | .cmdNoRate => 0x20#8
  | .cmdContradictory => 0x21#8
  | .cmdMissingArg => 0x22#8
  | .cmdMalformedArg => 0x23#8
  | .cmdRange => 0x24#8
  | .cmdGiWithoutE => 0x25#8
  | .cmdUnknownOption => 0x26#8

/-- R263: the TRANSPORT sub-cause codes. -/
def TransportCause.code : TransportCause → Byte
  | .notAssociated => 0x01#8
  | .txFailed => 0x02#8

/-- R264: the REFUSED sub-cause codes. -/
def RefusedCause.code : RefusedCause → Byte
  | .precondition => 0x01#8
  | .unimplementedOption => 0x02#8
  | .unsettledForm => 0x03#8
  | .reservedValue => 0x04#8
  | .buffer => 0x05#8

/-- R35: the status of a response. -/
def Response.status : Response → Status
  | .ok _ => .ok
  | .validation _ => .validation
  | .unsupportedEncoding _ => .unsupportedEncoding
  | .transport _ => .transport
  | .illegalOp => .illegalOp
  | .malformed => .malformed
  | .refused _ => .refused

/-- R35, R261: the `sub` byte of a response; 0x00 where the status has no sub-causes. -/
def Response.sub : Response → Byte
  | .ok _ => 0x00#8
  | .validation c => c.code
  | .unsupportedEncoding _ => 0x00#8
  | .transport c => c.code
  | .illegalOp => 0x00#8
  | .malformed => 0x00#8
  | .refused c => c.code

/-- R35, R261, R265: the result of a response; an error carries none, but for UNSUPPORTED_ENCODING's string. -/
def Response.result : Response → Result
  | .ok r => r
  | .validation _ => .none
  | .unsupportedEncoding s => .string s
  | .transport _ => .none
  | .illegalOp => .none
  | .malformed => .none
  | .refused _ => .none

/-! ### Flag suffixes and labels of RSPEC.DECODE -/

/-- R88 `BWLBL`. The arm of `"???"` is the source's, and no 3-bit code reaches it (90_conflicts.md C2). -/
def bwLabel (bw : BitVec 3) : Str :=
  match bw.toNat with
  | 0 => ascii "auto"
  | 1 => ascii "20"
  | 2 => ascii "40"
  | 3 => ascii "80"
  | 4 => ascii "160"
  | 5 => ascii "10"
  | 6 => ascii "5"
  | 7 => ascii "2.5"
  | _ => ascii "???"

/-- R89: the label of a HE GI code. -/
def hegiLabel (cfg : Cfg) (g : BitVec 2) : Str :=
  match g with
  | 0#2 => cfg.lblHegi0
  | 1#2 => cfg.lblHegi1
  | 2#2 => cfg.lblHegi2
  | 3#2 => cfg.lblHegi3

/-- A label that is shown when its flag is set. -/
def suffix (flag : Bool) (label : Str) : Str := if flag then label else []

/-- R130 `STBCS`. -/
def stbcSuffix (cfg : Cfg) (w : Word) : Str := suffix (w.getLsbD 20) cfg.lblStbc

/-- R130 `LDPCS`. -/
def ldpcSuffix (cfg : Cfg) (w : Word) : Str := suffix (w.getLsbD 22) cfg.lblLdpc

/-- R130 `SGIS`. -/
def sgiSuffix (cfg : Cfg) (w : Word) : Str := suffix (w.getLsbD 23) cfg.lblSgi

/-- R130 `DCMS`. -/
def dcmSuffix (cfg : Cfg) (w : Word) : Str := suffix (w.getLsbD 19) cfg.lblDcm

/-- R130 `GIS`. -/
def giSuffix (cfg : Cfg) (w : Word) : Str := hegiLabel cfg (field w 10 2)

/-- R130 `ERS`, with the tone polarity of R90. -/
def erSuffix (cfg : Cfg) (w : Word) : Str :=
  if w.getLsbD 15 then (if w.getLsbD 14 = cfg.erTone106 then ascii " er 106" else ascii " er 242") else []

end Sys2Proof.Machine
end

