-- ==== Sys2Proof/Machine/Operands.lean ====
section
/-! DEFINITION. What the meanings compute from their operands: the rate-spec word and its strings
(spec/40_ratespec_codec.md), the text grammar (spec/41_ratespec_text.md), the TWT octets and payloads
(spec/30_encoding.md §4 to §6, spec/42_twt_builder.md §1), and the profiles (spec/43_twt_profile.md). -/

namespace Sys2Proof.Machine

/-! ### The rate-spec word: R121, R123, R65 -/

/-- R121, R90: bit 14, set by polarity when range extension is on. -/
def erTone (cfg : Cfg) (p : RsParams) : Bool := p.erEn && (if p.er106 then cfg.erTone106 else !cfg.erTone106)

/-- R121, the fields of the encoding: `w[6:0]` for Legacy and HT, `w[3:0]` and `w[7:4]` for VHT and HE. -/
def packRate (p : RsParams) : Word :=
  match p.enc with
  | .legacy | .ht => place 32 p.rate 0
  | .vht | .he => place 32 p.mcs 0 ||| place 32 p.nss 4

/-- R121, the fields of every encoding. -/
def packShared (p : RsParams) : Word :=
  place 32 p.txexp 8 ||| place 32 p.bw 16 ||| place 32 (flag p.stbc) 20 ||| place 32 (flag p.ldpc) 22 |||
    place 32 (flag p.sgi) 23 ||| place 32 p.enc.code 24

/-- R121, the fields of HE alone. -/
def packHe (cfg : Cfg) (p : RsParams) : Word :=
  if p.enc = .he then
    place 32 p.heGi 10 ||| place 32 (flag (erTone cfg p)) 14 ||| place 32 (flag p.erEn) 15 ||| place 32 (flag p.dcm) 19
  else 0

/-- R121 `PACK`. -/
def pack (cfg : Cfg) (p : RsParams) : Word := packRate p ||| packShared p ||| packHe cfg p

/-- R123 `PRE(p)`, its four conditions in order. -/
def pre (p : RsParams) : Bool :=
  (p.enc != .vht || (p.mcs.toNat ≤ 11 && 1 ≤ p.nss.toNat && p.nss.toNat ≤ 8)) &&
  (p.enc != .he || (p.mcs.toNat ≤ 11 && ((1 ≤ p.nss.toNat && p.nss.toNat ≤ 8) || p.nss.toNat == 15))) &&
  (p.enc == .he || (p.heGi == 0 && !p.dcm && !p.erEn && !p.er106)) &&
  (p.enc != .he || !p.sgi)

/-- R65 `WIRE`: the four wire bytes of a word. -/
def wire (cfg : Cfg) (w : Word) : List Byte :=
  match cfg.wireOrder with
  | .le => le32 w
  | .be => (le32 w).reverse

/-! ### Numerals: R11 `dec` and `hex` -/

/-- The byte of a digit below 16, lowercase. -/
def digitByte (d : Nat) : Byte := if d < 10 then BitVec.ofNat 8 (0x30 + d) else BitVec.ofNat 8 (0x57 + d)

/-- R11 `dec(n)`: decimal, no padding, `"0"` for zero. -/
def dec (n : Nat) : Str := if n = 0 then [0x30#8] else ((Nat.digits 10 n).reverse.map digitByte)

/-- R11 `hex(n)`: lowercase hexadecimal, no padding, `"0"` for zero. -/
def hex (n : Nat) : Str := if n = 0 then [0x30#8] else ((Nat.digits 16 n).reverse.map digitByte)

/-! ### The strings of RSPEC.DECODE: R131 to R136 -/

/-- The string of the auto word (R92). -/
def autoString : Str := ascii "auto"

/-- `" Tx Exp " ++ dec(w[9:8])`. -/
def txexpString (w : Word) : Str := ascii " Tx Exp " ++ dec (field w 8 2).toNat

/-- `" BW " ++ BWLBL(w[18:16]) ++ STBCS(w) ++ LDPCS(w)`. -/
def bwString (cfg : Cfg) (w : Word) : Str :=
  ascii " BW " ++ bwLabel (field w 16 3) ++ stbcSuffix cfg w ++ ldpcSuffix cfg w

/-- `dec(w[3:0]) ++ " Nss " ++ dec(w[7:4])`. -/
def mcsNssString (w : Word) : Str := dec (field w 0 4).toNat ++ ascii " Nss " ++ dec (field w 4 4).toNat

/-- R132 `LEGACYS`. -/
def legacyString (w : Word) : Str :=
  ascii "rate " ++ dec ((field w 0 8).toNat / 2) ++ (if (field w 0 8).toNat % 2 = 1 then ascii ".5" else []) ++
    ascii " Mbps" ++ txexpString w

/-- R133 `HTS`. -/
def htString (cfg : Cfg) (w : Word) : Str :=
  ascii "ht mcs " ++ dec (field w 0 7).toNat ++ txexpString w ++ bwString cfg w ++ sgiSuffix cfg w

/-- R134 `VHTS`. -/
def vhtString (cfg : Cfg) (w : Word) : Str :=
  ascii "vht mcs " ++ mcsNssString w ++ txexpString w ++ bwString cfg w ++ sgiSuffix cfg w

/-- R135 `HES`. -/
def heString (cfg : Cfg) (w : Word) : Str :=
  ascii "he mcs " ++ mcsNssString w ++ txexpString w ++ bwString cfg w ++ giSuffix cfg w ++ dcmSuffix cfg w ++
    erSuffix cfg w

/-- R136: the in-band string of an unknown encoding. -/
def unknownString (w : Word) : Str := ascii "<unknown encoding for ratespec 0x" ++ hex w.toNat ++ ascii ">"

/-- R131 `DEC`, as the response. The last arm is the source's UnsupportedEncodingError, and no 2-bit code reaches it
(R136, 90_conflicts.md C2). -/
def decodeResponse (cfg : Cfg) (w : Word) : Response :=
  if isAuto w then .ok (.string autoString)
  else
    match (field w 24 2).toNat with
    | 0 => .ok (.string (legacyString w))
    | 1 => .ok (.string (htString cfg w))
    | 2 => .ok (.string (vhtString cfg w))
    | 3 => .ok (.string (heString cfg w))
    | _ => .unsupportedEncoding (unknownString w)

/-! ### Lexical primitives: R12, R160 -/

/-- R12 `WS`. -/
def isWs (b : Byte) : Bool := b == 0x20#8 || (0x09 ≤ b.toNat && b.toNat ≤ 0x0D)

/-- R12 `DIGIT`. -/
def isDigit (b : Byte) : Bool := 0x30 ≤ b.toNat && b.toNat ≤ 0x39

/-- The value of a digit byte. -/
def digitVal (b : Byte) : Nat := b.toNat - 0x30

/-- R160: the value of a run of digits, an unbounded natural. -/
def digitsValue (ds : Str) : Nat := ds.foldl (fun v b => 10 * v + digitVal b) 0

/-- A sign byte, `+` or `-` (R161). -/
def isSign (b : Byte) : Bool := b == 0x2B#8 || b == 0x2D#8

/-- The string without its first byte where that is a sign. -/
def dropSign : Str → Str
  | [] => []
  | b :: t => if isSign b then t else b :: t

/-- R160 `INT`: the value of the maximal run of digits that the string starts with, and what follows it. -/
def scanInt (t : Str) : Option (Nat × Str) :=
  if (t.takeWhile isDigit).isEmpty then none else some (digitsValue (t.takeWhile isDigit), t.dropWhile isDigit)

/-- `D+` (R171). -/
def isDigits (t : Str) : Bool := !t.isEmpty && t.all isDigit

/-- `D+ WS*` (R176). -/
def isDigitsWs (t : Str) : Bool := !(t.takeWhile isDigit).isEmpty && (t.dropWhile isDigit).all isWs

/-! ### RSPEC.PARSETOK: R162 -/

/-- The three answers of `PTOK`. -/
inductive Tok where
  | valid (mcs nss : Nat)
  | invalid (c : ValidationCause)
  | unsettled
  deriving DecidableEq, Repr

/-- R162, after the separator: one digit NSS in 1 to 8, then only whitespace. -/
def tokNssOf (m : Nat) : Str → Tok
  | [] => .invalid .tokNss
  | d :: tail =>
    if !isDigit d then .invalid .tokNss
    else if digitVal d < 1 || 8 < digitVal d then .invalid .tokNss
    else if tail.all isWs then .valid m (digitVal d)
    else .invalid .tokTrailing

/-- R162, after the integer: its range, then the separator. -/
def tokAfterInt (sep : Byte) (m : Nat) (rest : Str) : Tok :=
  if 11 < m then .invalid .tokMcsRange
  else
    match rest with
    | [] => .invalid .tokSeparator
    | x :: u => if x = sep then tokNssOf m u else .invalid .tokSeparator

/-- R162, after the optional `c`: the forms R161 leaves unsettled, then the integer. -/
def tokBody (sep : Byte) (t : Str) : Tok :=
  if t.head?.any fun b => isWs b || isSign b then .unsettled
  else
    match scanInt t with
    | none => .invalid .tokNoInteger
    | some (m, rest) => tokAfterInt sep m rest

/-- R162 `PTOK`: a lowercase `c` selects the separator `s`, otherwise it is `x`. -/
def ptok : Str → Tok
  | [] => .invalid .tokEmpty
  | b :: t => if b = 0x63#8 then tokBody 0x73#8 t else tokBody 0x78#8 (b :: t)

/-- R162: the response to a token. -/
def tokResponse : Tok → Response
  | .valid m n => .ok (.pair m n)
  | .invalid c => .validation c
  | .unsettled => .refused .unsettledForm

/-! ### RSPEC.PARSECMD: R170 to R179 -/

/-- R175 `DECIMAL`, after the sign: `D+ ("." D*)?` or `"." D+`, giving what follows the mantissa. -/
def afterMantissa (t : Str) : Option Str :=
  match (t.takeWhile isDigit).isEmpty, t.dropWhile isDigit with
  | false, [] => some []
  | false, b :: u => if b = 0x2E#8 then some (u.dropWhile isDigit) else some (b :: u)
  | true, [] => none
  | true, b :: u => if b = 0x2E#8 && !(u.takeWhile isDigit).isEmpty then some (u.dropWhile isDigit) else none

/-- R175 `DECIMAL`: the optional exponent, giving what follows it; an `e` without digits is no exponent. -/
def afterExponent : Str → Str
  | [] => []
  | b :: u =>
    if (b = 0x65#8 || b = 0x45#8) && !((dropSign u).takeWhile isDigit).isEmpty then (dropSign u).dropWhile isDigit
    else b :: u

/-- R175 `DECIMAL`. -/
def isDecimal (a : Str) : Bool :=
  match afterMantissa (dropSign (a.dropWhile isWs)) with
  | none => false
  | some u => (afterExponent u).all isWs

/-- The range check at the end of R175. -/
def rateInRange (r2 : Nat) : Except Response Nat := if 127 < r2 then .error (.validation .cmdRange) else .ok r2

/-- R175 `RATE2`: half-Mbps units, twice the `-r` value (R174). -/
def rate2Of (a : Str) : Except Response Nat :=
  if isDigits a then rateInRange (2 * digitsValue a)
  else if !(a.takeWhile isDigit).isEmpty && a.dropWhile isDigit == ascii ".5" then
    rateInRange (2 * digitsValue (a.takeWhile isDigit) + 1)
  else if isDecimal a then .error (.refused .unsettledForm)
  else .error (.validation .cmdMalformedArg)

/-- R176 `HEARG`: a token, or a bare integer whose NSS is the "unspecified" 15. -/
def heArgOf (a : Str) : Except Response (Nat × Nat) :=
  match ptok a with
  | .valid m n => .ok (m, n)
  | .unsettled => .error (.refused .unsettledForm)
  | .invalid _ =>
    if isDigitsWs a then
      if 11 < digitsValue (a.takeWhile isDigit) then .error (.validation .cmdRange)
      else .ok (digitsValue (a.takeWhile isDigit), 15)
    else .error (.validation .cmdMalformedArg)

/-- R177 `GI`. -/
def giOf (a : Str) : Except Response Nat :=
  if isDigits a then (if 3 < digitsValue a then .error (.validation .cmdRange) else .ok (digitsValue a))
  else if isDigitsWs (dropSign (a.dropWhile isWs)) then .error (.refused .unsettledForm)
  else .error (.validation .cmdMalformedArg)

/-- What an argument in option position is (R170, R171). -/
inductive CmdOption where
  | r
  | e
  | i
  | l
  | unimplemented
  | unknown
  deriving DecidableEq, Repr

/-- R171 `UNIMPL`, the union of 90_conflicts.md C6. -/
def unimplementedOptions : List Str :=
  [ascii "-h", ascii "-v", ascii "-c", ascii "--vht", ascii "-s", ascii "-x", ascii "--stbc", ascii "-g", ascii "-b",
   ascii "-d", ascii "-n"]

/-- R170: an option is recognised only byte for byte. -/
def optionOf (a : Str) : CmdOption :=
  if unimplementedOptions.contains a then .unimplemented
  else if a = ascii "-r" then .r
  else if a = ascii "-e" then .e
  else if a = ascii "-i" then .i
  else if a = ascii "-l" then .l
  else .unknown

/-- R42: the parse state of one RSPEC.PARSECMD request. It does not exist outside the request (R44). -/
structure CmdState where
  seenR : Bool
  seenE : Bool
  seenI : Bool
  seenL : Bool
  rate2 : Nat
  mcs   : Nat
  nss   : Nat
  gi    : Nat
  deriving DecidableEq, Repr

/-- R42: the parse state at the start of the request. -/
def CmdState.init : CmdState := ⟨false, false, false, false, 0, 0, 15, 0⟩

/-- R172: the scan of the arguments from left to right; the first argument that fails decides. -/
def cmdScan : CmdState → List Str → Except Response CmdState
  | st, [] => .ok st
  | st, a :: rest =>
    match optionOf a with
    | .unimplemented => .error (.refused .unimplementedOption)
    | .unknown => .error (.validation .cmdUnknownOption)
    | .l => if st.seenL then .error (.refused .unsettledForm) else cmdScan { st with seenL := true } rest
    | .r =>
      if st.seenR then .error (.refused .unsettledForm)
      else if st.seenE then .error (.validation .cmdContradictory)
      else
        match rest with
        | [] => .error (.validation .cmdMissingArg)
        | v :: rest' =>
          match rate2Of v with
          | .error r => .error r
          | .ok r2 => cmdScan { st with rate2 := r2, seenR := true } rest'
    | .e =>
      if st.seenE then .error (.refused .unsettledForm)
      else if st.seenR then .error (.validation .cmdContradictory)
      else
        match rest with
        | [] => .error (.validation .cmdMissingArg)
        | v :: rest' =>
          match heArgOf v with
          | .error r => .error r
          | .ok (m, n) => cmdScan { st with mcs := m, nss := n, seenE := true } rest'
    | .i =>
      if st.seenI then .error (.refused .unsettledForm)
      else if !st.seenE then .error (.validation .cmdGiWithoutE)
      else
        match rest with
        | [] => .error (.validation .cmdMissingArg)
        | v :: rest' =>
          match giOf v with
          | .error r => .error r
          | .ok g => cmdScan { st with gi := g, seenI := true } rest'

/-- R172: the parameters of a scanned command that has a rate option. -/
def cmdParams (st : CmdState) : RsParams :=
  if st.seenR then { RsParams.zero with enc := .legacy, rate := BitVec.ofNat 7 st.rate2, ldpc := st.seenL }
  else { RsParams.zero with
         enc := .he, mcs := BitVec.ofNat 4 st.mcs, nss := BitVec.ofNat 4 st.nss, heGi := BitVec.ofNat 2 st.gi
         ldpc := st.seenL }

/-- R172: the parameters that the arguments set, or the response that ends the request. -/
def parseCmd (args : List Str) : Except Response RsParams :=
  match cmdScan CmdState.init args with
  | .error r => .error r
  | .ok st => if !st.seenR && !st.seenE then .error (.validation .cmdNoRate) else .ok (cmdParams st)

/-- R172: the response to a command. -/
def cmdResponse (cfg : Cfg) (args : List Str) : Response :=
  match parseCmd args with
  | .error r => r
  | .ok p => .ok (.word (pack cfg p))

/-! ### The TWT octets: R201, R202, R220 -/

/-- R201 `NEGO(code, fid)`. The failing arm is the source's, and no 2-bit code reaches it (90_conflicts.md C3). -/
def nego (code : Nat) (fid : BitVec 3) : Option (Nego × BitVec 3) :=
  match code with
  | 0 => some (.individual, fid)
  | 1 => some (.wakeTbtt, 0)
  | 2 => some (.broadcastInBeacon, 0)
  | 3 => some (.broadcastMembership, fid)
  | _ => none

/-- R202 `CTRL(o)`, none where `NEGO` fails. -/
def ctrlOf (o : Byte) : Option TwtCtrl :=
  (nego (field o 2 2).toNat 0).map fun n =>
    { ndpPaging := o.getLsbD 0, respPm := o.getLsbD 1, negoCode := field o 2 2, nego := n.1,
      infoFrameDisabled := o.getLsbD 4, wakeDurUnit := o.getLsbD 5, reserved := field o 6 2 }

/-- R220 `TD(f)`, none where `NEGO` fails. -/
def tdOf (f : Byte) : Option TwtTd :=
  (nego (field f 5 2).toNat (field f 0 3)).map fun n =>
    { flowIdRaw := field f 0 3, reserved := field f 3 2, negoCode := field f 5 2, nego := n.1, flowId := n.2,
      all := f.getLsbD 7 }

/-- R202: the response of TWT.CTRLMAP. -/
def ctrlResponse (o : Byte) : Response :=
  match ctrlOf o with
  | some c => .ok (.ctrl c)
  | none => .validation .negoType

/-- R220: the response of TWT.TDMAP. -/
def tdResponse (f : Byte) : Response :=
  match tdOf f with
  | some d => .ok (.td d)
  | none => .validation .negoType

/-! ### The payloads: R96, R98, R100 -/

/-- R96 `RT(p, fid)`. -/
def requestType (cmd : Byte) (p : TwtParams) (fid : BitVec 3) : BitVec 16 :=
  place 16 (flag p.requestor) 0 ||| place 16 (field cmd 0 3) 1 ||| place 16 (flag p.trigger) 4 |||
    place 16 (flag p.implicit) 5 ||| place 16 (flag p.flowType) 6 ||| place 16 fid 7 ||| place 16 p.exponent 10 |||
    place 16 (flag p.protection) 15

/-- R98: the 20 bytes of the setup payload. -/
def setupPayload (cfg : Cfg) (cmd : Byte) (p : TwtParams) (fid : BitVec 3) : List Byte :=
  [cfg.catS1g, cfg.actSetup, p.dialog, cfg.eidTwt, 0x0F#8, p.ctrl] ++ le16 (requestType cmd p fid) ++ le64 p.twt ++
    [p.minWake] ++ le16 p.mantissa ++ [p.channel]

/-- R100: the 3 bytes of the teardown payload. -/
def teardownPayload (cfg : Cfg) (f : Byte) : List Byte := [cfg.catS1g, cfg.actTeardown, f]

/-- R210 steps 1 to 4 without the capacity check: the payload of a setup, or the VALIDATION that ends it. -/
def setupImage (cfg : Cfg) (cmd : Byte) (p : TwtParams) : Except ValidationCause (List Byte) :=
  if 7 < cmd.toNat then .error .setupCmd
  else
    match nego (field p.ctrl 2 2).toNat p.flowId with
    | none => .error .negoType
    | some (_, fid) => .ok (setupPayload cfg cmd p fid)

/-! ### The profiles: R251 -/

/-- R251: the selection of a profile and a band whose codes are not reserved. -/
def profileSelection (pr bd : Byte) : Option Selection :=
  if 3 ≤ pr.toNat || 3 ≤ bd.toNat then none
  else if pr = 0#8 then some (.teardown 0x80#8)
  else if pr = 1#8 then some (if bd = 0#8 then .setup 8#8 600#16 10#5 else .setup 2#8 600#16 10#5)
  else some (.setup 31#8 50000#16 0#5)

end Sys2Proof.Machine
end

