-- ==== Sys2Proof/Machine/Ops.lean ====
section
/-! DEFINITION. The named operations every meaning is built from: the output slice (spec/20_memory.md), giving the one
response of a request (`raise`, `refuse` and `resp <-` of spec/00_scope.md R11: the block has no trap, so this is its
whole error mechanism, spec/60_exceptions.md R268), and the gated send with its draws (spec/42_twt_builder.md R213). -/

namespace Sys2Proof.Machine

/-! ### OutBuf -/

/-- The canonical form of OutBuf: indices strictly rising. -/
abbrev Memory.wf (m : Memory) : Prop := List.Pairwise (fun a b : Host.Cell => a.1 < b.1) m

/-- The byte at index `a`, or none where the caller's byte was not given to the model (log entry 4). -/
def Memory.read (m : Memory) (a : Nat) : Option Byte := (m.find? fun c => c.1 == a).map Prod.snd

/-- R11 `MemWrite(a, 1, v)`. -/
def Memory.write : Memory → Nat → Byte → Memory
  | [], a, v => [(a, v)]
  | c :: m, a, v =>
    if a < c.1 then (a, v) :: c :: m
    else if a = c.1 then (a, v) :: m
    else c :: Memory.write m a v

/-- The bytes written from index `a` upward (R60). -/
def Memory.writeBytes : Memory → Nat → List Byte → Memory
  | m, _, [] => m
  | m, a, v :: vs => Memory.writeBytes (m.write a v) (a + 1) vs

/-- R71 `COMMIT_DRAW`: each byte from index `a` upward is its old value or the new byte, by the draw of its own number. -/
def Memory.drawBytes : Memory → Nat → Nat → List Byte → Memory
  | m, _, _, [] => m
  | m, k, a, v :: vs =>
    Memory.drawBytes (if Config.drawBit k then m.write a v else m) (k + 1) (a + 1) vs

/-! ### The request in progress -/

/-- R35 `req.out_cap`. -/
def State.outCap (s : State) : Nat := (s.request.map Request.outCap).getD 0

/-- R35 `req.tx_ctx`. -/
def State.txCtx (s : State) : List Byte := (s.request.map Request.txCtx).getD []

/-- R35: the one response of the request. The request leaves its port, and no call of it is outstanding. -/
def State.respond (s : State) (r : Response) : State :=
  { s with request := none, call := none, response := some r }

/-- `resp <- …`, `raise E(sub)` and `refuse(why)` of R11, with no byte written: the request ends with this response. -/
def State.answer (s : State) (r : Response) : Host.Outcome State Fault Refusal := .next (s.respond r)

/-- R69: the payload bytes and the OK response, as one event. -/
def State.commit (s : State) (P : List Byte) (r : Result) : Host.Outcome State Fault Refusal :=
  if P.length ≤ s.outCap then .next ({ s with outBuf := s.outBuf.writeBytes 0 P }.respond (.ok r))
  else .fault .outsideOutBuf

/-- R80, R81, R84: the response to a descriptor that the decoder rejects. -/
def rejection : DecodeError → Response
  | .malformed => .malformed
  | .illegalOp => .illegalOp
  | .reservedValue => .refused .reservedValue

/-! ### The gated send (R213) -/

/-- R71 `COMMIT_DRAW(P)`: OutBuf with each payload byte drawn, and the draws counted. R71 does not say whether the draws
of two requesters are independent: here two lanes whose counters are equal draw alike (DESIGN CHOICE, log entries 2
and 8). -/
def State.drawOutBuf (s : State) (P : List Byte) : State :=
  { s with outBuf := s.outBuf.drawBytes s.draws 0 P, draws := s.draws + P.length }

/-- R213: `COMMIT_DRAW(P); raise TRANSPORT(c)`. -/
def State.transportError (s : State) (P : List Byte) (c : TransportCause) : Host.Outcome State Fault Refusal :=
  if P.length ≤ s.outCap then .next ((s.drawOutBuf P).respond (.transport c)) else .fault .outsideOutBuf

/-- The Tx call of R213 is outstanding: its answer ends the request, and without one the request waits (R298). -/
def State.awaitTx (s : State) (P : List Byte) : Host.Outcome State Fault Refusal :=
  match s.txAnswers with
  | [] => .next s
  | .ok :: as => State.commit { s with txAnswers := as } P (.payload P)
  | .fail :: as => State.transportError { s with txAnswers := as } P .txFailed

/-- R36: the Tx call is made, and is outstanding. -/
def State.callTx (s : State) (P : List Byte) : State :=
  { s with calls := s.calls ++ [.tx P s.txCtx], call := some ⟨.tx, P⟩ }

/-- The Assoc call of R213 is outstanding: `false` ends the request, `true` lets the Tx call be made, and without an
answer the request waits (R298). -/
def State.awaitAssoc (s : State) (P : List Byte) : Host.Outcome State Fault Refusal :=
  match s.assocAnswers with
  | [] => .next s
  | false :: as => State.transportError { s with assocAnswers := as } P .notAssociated
  | true :: as => (State.callTx { s with assocAnswers := as } P).awaitTx P

/-- R37: the Assoc call is made, and is outstanding. -/
def State.callAssoc (s : State) (P : List Byte) : State :=
  { s with calls := s.calls ++ [.assoc], call := some ⟨.assoc, P⟩ }

/-- R213 `SEND(P, req)`, with the OK end of R210 and R223 behind it: OutBuf gets `P` only on OK. -/
def State.send (s : State) (P : List Byte) : Host.Outcome State Fault Refusal := (s.callAssoc P).awaitAssoc P

/-- A request whose collaborator call is outstanding goes on when the answer is there (R298). -/
def State.resume (s : State) (c : PendingCall) : Host.Outcome State Fault Refusal :=
  match c.port with
  | .assoc => s.awaitAssoc c.payload
  | .tx => s.awaitTx c.payload

/-! ### The requester's side of the ports -/

/-- R35: a requester puts a request on the free request port, and has taken the last response. -/
def State.present (s : State) (r : Request) : State := { s with request := some r, call := none, response := none }

end Sys2Proof.Machine
end

