-- ==== Sys2Proof/Machine/Profile.lean ====
section
/-! DEFINITION. The meaning of TWT.PROFILE (spec/43_twt_profile.md). -/

namespace Sys2Proof.Machine

/-- R251 TWT.PROFILE: a selection, or the refusal of a reserved profile or band code. -/
def execTwtProfile (pr bd : Byte) (s : State) : Host.Outcome State Fault Refusal :=
  match profileSelection pr bd with
  | some x => s.answer (.ok (.selection x))
  | none => s.answer (.refused .reservedValue)

end Sys2Proof.Machine
end

