-- ==== Sys2Proof/Machine/RateSpec.lean ====
section
/-! DEFINITION. The meanings of RSPEC.ENCODE and RSPEC.DECODE (spec/40_ratespec_codec.md), and of the RSPEC_WORD
classes (spec/30_encoding.md R93): RSPEC.DECODE of a word of that class, which gives the class's own string. -/

namespace Sys2Proof.Machine

/-- R122 RSPEC.ENCODE: the precondition, the capacity, then the word and its four wire bytes. -/
def execRspecEncode (p : RsParams) (s : State) : Host.Outcome State Fault Refusal :=
  if pre p then
    if 4 ≤ s.outCap then s.commit (wire s.cfg (pack s.cfg p)) (.word (pack s.cfg p))
    else s.answer (.refused .buffer)
  else s.answer (.refused .precondition)

/-- R131 RSPEC.DECODE. -/
def execRspecDecode (w : Word) (s : State) : Host.Outcome State Fault Refusal := s.answer (decodeResponse s.cfg w)

/-- R93 class AUTO: `"auto"`, whatever `txexp` is. -/
def execWordAuto (_txexp : BitVec 2) (s : State) : Host.Outcome State Fault Refusal :=
  s.answer (.ok (.string autoString))

/-- R93 class LEGACY: the legacy string (R132). -/
def execWordLegacy (hi : BitVec 6) (lo : BitVec 24) (s : State) : Host.Outcome State Fault Refusal :=
  s.answer (.ok (.string (legacyString (wordOf hi 0#2 lo))))

/-- R93 class HT: the HT string (R133). -/
def execWordHt (hi : BitVec 6) (lo : BitVec 24) (s : State) : Host.Outcome State Fault Refusal :=
  s.answer (.ok (.string (htString s.cfg (wordOf hi 1#2 lo))))

/-- R93 class VHT: the VHT string (R134). -/
def execWordVht (hi : BitVec 6) (lo : BitVec 24) (s : State) : Host.Outcome State Fault Refusal :=
  s.answer (.ok (.string (vhtString s.cfg (wordOf hi 2#2 lo))))

/-- R93 class HE: the HE string (R135). -/
def execWordHe (hi : BitVec 6) (lo : BitVec 24) (s : State) : Host.Outcome State Fault Refusal :=
  s.answer (.ok (.string (heString s.cfg (wordOf hi 3#2 lo))))

end Sys2Proof.Machine
end

