-- ==== Sys2Proof/Machine/RateText.lean ====
section
/-! DEFINITION. The meanings of RSPEC.PARSETOK and RSPEC.PARSECMD (spec/41_ratespec_text.md). -/

namespace Sys2Proof.Machine

/-- R162 RSPEC.PARSETOK. -/
def execRspecParsetok (t : Str) (s : State) : Host.Outcome State Fault Refusal := s.answer (tokResponse (ptok t))

/-- R172 RSPEC.PARSECMD. -/
def execRspecParsecmd (args : List Str) (s : State) : Host.Outcome State Fault Refusal :=
  s.answer (cmdResponse s.cfg args)

end Sys2Proof.Machine
end

