-- ==== Sys2Proof/Machine/Twt.lean ====
section
/-! DEFINITION. The meanings of TWT.CTRLMAP, TWT.SETUP, TWT.TDMAP and TWT.TEARDOWN (spec/42_twt_builder.md), and of
the classes of their operands: the TWT_CTRL rows as TWT.CTRLMAP of an octet of the class (R95), the TWT_TD rows as
TWT.TDMAP of an octet of the class (R100), and the SETUP_CMD rows as TWT.SETUP with that command (R97). -/

namespace Sys2Proof.Machine

/-- R210: the checks of a setup in their order, then the gated send. -/
def setupRequest (cmd : Byte) (p : TwtParams) (s : State) : Host.Outcome State Fault Refusal :=
  match setupImage s.cfg cmd p with
  | .error c => s.answer (.validation c)
  | .ok P => if 20 ≤ s.outCap then s.send P else s.answer (.refused .buffer)

/-- R223: the mapping of a teardown, the capacity, then the gated send. -/
def teardownRequest (f : Byte) (s : State) : Host.Outcome State Fault Refusal :=
  match tdOf f with
  | none => s.answer (.validation .negoType)
  | some _ => if 3 ≤ s.outCap then s.send (teardownPayload s.cfg f) else s.answer (.refused .buffer)

/-- R202: TWT.CTRLMAP of an octet. -/
def ctrlmapRequest (o : Byte) (s : State) : Host.Outcome State Fault Refusal := s.answer (ctrlResponse o)

/-- R220: TWT.TDMAP of an octet. -/
def tdmapRequest (f : Byte) (s : State) : Host.Outcome State Fault Refusal := s.answer (tdResponse f)

/-- R202 TWT.CTRLMAP. -/
def execTwtCtrlmap (o : Byte) (s : State) : Host.Outcome State Fault Refusal := ctrlmapRequest o s

/-- R210 TWT.SETUP. -/
def execTwtSetup (cmd : Byte) (p : TwtParams) (s : State) : Host.Outcome State Fault Refusal := setupRequest cmd p s

/-- R220 TWT.TDMAP. -/
def execTwtTdmap (f : Byte) (s : State) : Host.Outcome State Fault Refusal := tdmapRequest f s

/-- R223 TWT.TEARDOWN. -/
def execTwtTeardown (f : Byte) (s : State) : Host.Outcome State Fault Refusal := teardownRequest f s

/-! ### The classes of the control octet (R95) -/

/-- TWT_CTRL.NEGO.Individual, match 0x00 under mask 0x0C. -/
def execCtrlIndividual (hi : BitVec 4) (lo : BitVec 2) (s : State) : Host.Outcome State Fault Refusal :=
  ctrlmapRequest (ctrlOctetOf hi 0#2 lo) s

/-- TWT_CTRL.NEGO.WakeTBTT, match 0x04. -/
def execCtrlWakeTbtt (hi : BitVec 4) (lo : BitVec 2) (s : State) : Host.Outcome State Fault Refusal :=
  ctrlmapRequest (ctrlOctetOf hi 1#2 lo) s

/-- TWT_CTRL.NEGO.BroadcastInBeacon, match 0x08. -/
def execCtrlBroadcastInBeacon (hi : BitVec 4) (lo : BitVec 2) (s : State) : Host.Outcome State Fault Refusal :=
  ctrlmapRequest (ctrlOctetOf hi 2#2 lo) s

/-- TWT_CTRL.NEGO.BroadcastMembership, match 0x0C. -/
def execCtrlBroadcastMembership (hi : BitVec 4) (lo : BitVec 2) (s : State) : Host.Outcome State Fault Refusal :=
  ctrlmapRequest (ctrlOctetOf hi 3#2 lo) s

/-! ### The classes of the teardown flags octet (R100) -/

/-- TWT_TD.NEGO.Individual, match 0x00 under mask 0x60. -/
def execTdIndividual (hi : BitVec 1) (lo : BitVec 5) (s : State) : Host.Outcome State Fault Refusal :=
  tdmapRequest (tdOctetOf hi 0#2 lo) s

/-- TWT_TD.NEGO.WakeTBTT, match 0x20. -/
def execTdWakeTbtt (hi : BitVec 1) (lo : BitVec 5) (s : State) : Host.Outcome State Fault Refusal :=
  tdmapRequest (tdOctetOf hi 1#2 lo) s

/-- TWT_TD.NEGO.BroadcastInBeacon, match 0x40. -/
def execTdBroadcastInBeacon (hi : BitVec 1) (lo : BitVec 5) (s : State) : Host.Outcome State Fault Refusal :=
  tdmapRequest (tdOctetOf hi 2#2 lo) s

/-- TWT_TD.NEGO.BroadcastMembership, match 0x60. -/
def execTdBroadcastMembership (hi : BitVec 1) (lo : BitVec 5) (s : State) : Host.Outcome State Fault Refusal :=
  tdmapRequest (tdOctetOf hi 3#2 lo) s

/-! ### The setup commands (R97) -/

/-- SETUP_CMD.Request. -/
def execCmdRequest (p : TwtParams) (s : State) : Host.Outcome State Fault Refusal := setupRequest 0#8 p s

/-- SETUP_CMD.Suggest. -/
def execCmdSuggest (p : TwtParams) (s : State) : Host.Outcome State Fault Refusal := setupRequest 1#8 p s

/-- SETUP_CMD.Demand. -/
def execCmdDemand (p : TwtParams) (s : State) : Host.Outcome State Fault Refusal := setupRequest 2#8 p s

/-- SETUP_CMD.Grouping. -/
def execCmdGrouping (p : TwtParams) (s : State) : Host.Outcome State Fault Refusal := setupRequest 3#8 p s

/-- SETUP_CMD.Accept. -/
def execCmdAccept (p : TwtParams) (s : State) : Host.Outcome State Fault Refusal := setupRequest 4#8 p s

/-- SETUP_CMD.Alternate. -/
def execCmdAlternate (p : TwtParams) (s : State) : Host.Outcome State Fault Refusal := setupRequest 5#8 p s

/-- SETUP_CMD.Dictate. -/
def execCmdDictate (p : TwtParams) (s : State) : Host.Outcome State Fault Refusal := setupRequest 6#8 p s

/-- SETUP_CMD.Reject. -/
def execCmdReject (p : TwtParams) (s : State) : Host.Outcome State Fault Refusal := setupRequest 7#8 p s

end Sys2Proof.Machine
end

