-- ==== Sys2Proof/Machine/Dispatch.lean ====
section
/-! DEFINITION. One arm per constructor of `Instr`, each one direct call of that instruction's meaning. -/

namespace Sys2Proof.Machine

def exec (i : Instr) (s : State) : Host.Outcome State Fault Refusal :=
  match i with
  | .rspecEncode p => Sys2Proof.Machine.execRspecEncode p s
  | .rspecDecode w => Sys2Proof.Machine.execRspecDecode w s
  | .rspecParsetok t => Sys2Proof.Machine.execRspecParsetok t s
  | .rspecParsecmd args => Sys2Proof.Machine.execRspecParsecmd args s
  | .twtCtrlmap o => Sys2Proof.Machine.execTwtCtrlmap o s
  | .twtSetup cmd p => Sys2Proof.Machine.execTwtSetup cmd p s
  | .twtTdmap f => Sys2Proof.Machine.execTwtTdmap f s
  | .twtTeardown f => Sys2Proof.Machine.execTwtTeardown f s
  | .twtProfile pr bd => Sys2Proof.Machine.execTwtProfile pr bd s
  | .wordAuto txexp => Sys2Proof.Machine.execWordAuto txexp s
  | .wordLegacy hi lo => Sys2Proof.Machine.execWordLegacy hi lo s
  | .wordHt hi lo => Sys2Proof.Machine.execWordHt hi lo s
  | .wordVht hi lo => Sys2Proof.Machine.execWordVht hi lo s
  | .wordHe hi lo => Sys2Proof.Machine.execWordHe hi lo s
  | .ctrlIndividual hi lo => Sys2Proof.Machine.execCtrlIndividual hi lo s
  | .ctrlWakeTbtt hi lo => Sys2Proof.Machine.execCtrlWakeTbtt hi lo s
  | .ctrlBroadcastInBeacon hi lo => Sys2Proof.Machine.execCtrlBroadcastInBeacon hi lo s
  | .ctrlBroadcastMembership hi lo => Sys2Proof.Machine.execCtrlBroadcastMembership hi lo s
  | .tdIndividual hi lo => Sys2Proof.Machine.execTdIndividual hi lo s
  | .tdWakeTbtt hi lo => Sys2Proof.Machine.execTdWakeTbtt hi lo s
  | .tdBroadcastInBeacon hi lo => Sys2Proof.Machine.execTdBroadcastInBeacon hi lo s
  | .tdBroadcastMembership hi lo => Sys2Proof.Machine.execTdBroadcastMembership hi lo s
  | .cmdRequest p => Sys2Proof.Machine.execCmdRequest p s
  | .cmdSuggest p => Sys2Proof.Machine.execCmdSuggest p s
  | .cmdDemand p => Sys2Proof.Machine.execCmdDemand p s
  | .cmdGrouping p => Sys2Proof.Machine.execCmdGrouping p s
  | .cmdAccept p => Sys2Proof.Machine.execCmdAccept p s
  | .cmdAlternate p => Sys2Proof.Machine.execCmdAlternate p s
  | .cmdDictate p => Sys2Proof.Machine.execCmdDictate p s
  | .cmdReject p => Sys2Proof.Machine.execCmdReject p s

end Sys2Proof.Machine
end

