-- ==== Sys2Proof/Machine/Reset.lean ====
section
/-! DEFINITION. What reset does to a block at work (spec/70_reset_and_hazards.md R290, R291; spec/10_state.md R44). -/

namespace Sys2Proof.Machine

/-- The bytes that a request on the port would write, and whether they are a frame to send: those of the three writing
operations (R60) whose own checks and capacity pass. R291 gives no bytes to a request that would be REFUSED, so the model
has none for it and reset leaves OutBuf and the calls as they were (DESIGN CHOICE, log entries 3 and 6; `ChipStep` leaves
open what a chip does). -/
def requestImage (cfg : Cfg) (r : Request) : Option (List Byte × Bool) :=
  match decode r.desc with
  | .ok (.rspecEncode p) => if pre p && 4 ≤ r.outCap then some (wire cfg (pack cfg p), false) else none
  | .ok (.twtSetup cmd p) =>
    match setupImage cfg cmd p with
    | .ok P => if 20 ≤ r.outCap then some (P, true) else none
    | .error _ => none
  | .ok (.twtTeardown f) => if 3 ≤ r.outCap then some (teardownPayload cfg f, true) else none
  | _ => none

/-- The bytes `0..n-1` of R291 for the request in flight, if it has any. -/
def State.inFlightImage (s : State) : Option (List Byte × Bool) :=
  match s.call with
  | some c => some (c.payload, true)
  | none => s.request.bind (requestImage s.cfg)

/-- R291: the calls that the collaborators have had if the frame of the request in flight was sent; its Assoc call came
before (R213). -/
def State.callsIfSent (s : State) (P : List Byte) : List PortCall :=
  match s.call with
  | none => s.calls ++ [.assoc, .tx P s.txCtx]
  | some ⟨.assoc, _⟩ => s.calls ++ [.tx P s.txCtx]
  | some ⟨.tx, _⟩ => s.calls

/-- R291: the calls that the collaborators have had if it was not sent. Of a request with no call outstanding, R291 does
not say whether its Assoc call was made: `assocMade` is a draw (DESIGN CHOICE, log entry 6). -/
def State.callsIfNotSent (s : State) (assocMade : Bool) : List PortCall :=
  match s.call with
  | none => if assocMade then s.calls ++ [.assoc] else s.calls
  | some ⟨.assoc, _⟩ => s.calls
  | some ⟨.tx, _⟩ => s.calls.dropLast

/-- R291: the draws of a request in flight: each of its OutBuf bytes, then whether its frame was sent, then whether its
Assoc call alone was made (log entry 6). -/
def State.cutShort (s : State) : State :=
  match s.inFlightImage with
  | none => s
  | some (P, false) => s.drawOutBuf P
  | some (P, true) =>
    { s.drawOutBuf P with
      calls := if Config.drawBit (s.draws + P.length) then s.callsIfSent P
        else s.callsIfNotSent (Config.drawBit (s.draws + P.length + 1))
      draws := s.draws + P.length + 2 }

/-- R44, R290, R291: reset. The request in flight is lost and gets no response, the response port holds none, no call is
outstanding, and CFG is kept. -/
def State.applyReset (s : State) : State :=
  { s.cutShort with request := none, response := none, call := none, resetIn := false }

end Sys2Proof.Machine
end

