-- ==== Sys2Proof/Machine/Step.lean ====
section
/-! DEFINITION. One step of the block (spec/10_state.md R32): reset where it has come; otherwise the request on the
port, which is decoded and run, or goes on at its outstanding call (R298). The block has no program counter (R31): the
requester decides which request comes next. -/

namespace Sys2Proof.Machine

/-- One step. With no request on the port the block waits for one. -/
def step (s : State) : Host.Outcome State Fault Refusal :=
  if s.resetIn then .next s.applyReset
  else
    match s.request with
    | none => .next s
    | some r =>
      match s.call with
      | some c => s.resume c
      | none =>
        match decode r.desc with
        | .error e => s.answer (rejection e)
        | .ok i => exec i s

/-- The request that a row's word stands for, put on the request port by a requester (log entry 5). Its OutBuf is the
32 bytes that spec/95_test_vectors.md §0 uses. -/
def State.withFetchWord (s : State) (nbits w : Nat) : State :=
  { s with request := some ⟨tableDescriptor nbits w, 32, []⟩, call := none, resetIn := false }

end Sys2Proof.Machine
end

