-- ==== Sys2Proof/Machine/Fleet.lean ====
section
/-! DEFINITION. Several requesters at once (spec/20_memory.md R75 to R77, spec/60_exceptions.md R276). The block keeps
no state between requests and its requests share none (R2, R43), so each requester's use of it is a lane: a copy of the
machine with its own ports and its own OutBuf. A schedule says which lane moves next. Each lane counts its own draws from the one sequence
`Config.drawBit`, so lanes with equal counters draw alike, which the spec does not say (DESIGN CHOICE, log entry 8). -/

namespace Sys2Proof.Machine

/-- The requesters' lanes. -/
structure Fleet where
  lanes : List State
  deriving DecidableEq, Repr

/-- One step of lane `k`; nothing happens where there is no such lane. Reset is an input of each lane, where the block is
one and R291 speaks of any request in flight: a reset of the block is `resetIn` set in every lane, and the model lets a
world also set it in some lanes and not in others (DESIGN CHOICE, log entries 6 and 8). -/
def Fleet.stepLane (F : Fleet) (k : Nat) : Host.Outcome Fleet Fault Refusal :=
  match F.lanes[k]? with
  | none => .next F
  | some s =>
    match step s with
    | .next t => .next ⟨F.lanes.set k t⟩
    | .fault f => .fault f
    | .refused r => .refused r

/-- The lanes moved in the order of a schedule (R75: any interleaving). -/
def Fleet.run : Fleet → List Nat → Host.Outcome Fleet Fault Refusal
  | F, [] => .next F
  | F, k :: ks =>
    match F.stepLane k with
    | .next G => Fleet.run G ks
    | .fault f => .fault f
    | .refused r => .refused r

end Sys2Proof.Machine
end

