-- ==== Sys2Proof/Safety.lean ====
section
/-! DEFINITION. What claims call a well-kept state, a safe run, a state that takes a request, a request that
sends, and what a chip may do where the spec leaves it open. -/

namespace Sys2Proof

/-- R123: the precondition of RSPEC.ENCODE, its four conditions as the spec words them. -/
abbrev RsParams.meetsPre (p : RsParams) : Prop :=
  (p.enc = .vht → p.mcs.toNat ≤ 11 ∧ 1 ≤ p.nss.toNat ∧ p.nss.toNat ≤ 8) ∧
  (p.enc = .he → p.mcs.toNat ≤ 11 ∧ ((1 ≤ p.nss.toNat ∧ p.nss.toNat ≤ 8) ∨ p.nss.toNat = 15)) ∧
  (p.enc ≠ .he → p.heGi = 0 ∧ p.dcm = false ∧ p.erEn = false ∧ p.er106 = false) ∧
  (p.enc = .he → p.sgi = false)

namespace Machine

/-- R98, R100: the payload of an outstanding call is a frame of the block, and R61 has left room for it. -/
abbrev State.callFits (s : State) (c : PendingCall) : Prop :=
  (∃ r, s.request = some r ∧ c.payload.length ≤ r.outCap) ∧
  ((c.payload.length = 20 ∧ c.payload.take 2 = [s.cfg.catS1g, s.cfg.actSetup]) ∨
   (c.payload.length = 3 ∧ c.payload.take 2 = [s.cfg.catS1g, s.cfg.actTeardown]))

/-- What every step keeps: CFG is legal (R34), OutBuf is in canonical form, and an outstanding call belongs to the request
on the port, which has room for its payload. -/
structure State.Inv (s : State) : Prop where
  cfgLegal : s.cfg.legal
  outBufWf : s.outBuf.wf
  callFits : ∀ c, s.call = some c → s.callFits c

/-- A safe run: however many steps it makes, none of them is a fault or a refusal. -/
def State.Safe (s : State) : Prop := ∀ n, ∃ t, Host.Core.run Sys2Proof.core n s = .next t

/-- The request `r` is on the port and not yet begun, and no reset has come. -/
abbrev State.takes (s : State) (r : Request) : Prop := s.resetIn = false ∧ s.request = some r ∧ s.call = none

/-- R214: the flow id that a setup carries. -/
def carriedFlowId (p : TwtParams) : BitVec 3 :=
  if field p.ctrl 2 2 = 0 ∨ field p.ctrl 2 2 = 3 then p.flowId else 0

/-- R210, R223: the request passes its own checks and its OutBuf has room, so that the block gates and makes the send of
this payload. -/
inductive Sends (s : State) : Instr → List Byte → Prop where
  | setup (cmd : Byte) (p : TwtParams) (valid : cmd.toNat ≤ 7) (room : 20 ≤ s.outCap) :
      Sends s (.twtSetup cmd p) (setupPayload s.cfg cmd p (carriedFlowId p))
  | teardown (f : Byte) (room : 3 ≤ s.outCap) : Sends s (.twtTeardown f) (teardownPayload s.cfg f)

/-- R71: every OutBuf byte of `t` is the byte of `s`, or the payload's byte of that index; so none at or past the
payload's length has changed. -/
def drawnFrom (s t : State) (P : List Byte) : Prop :=
  ∀ a, t.outBuf.read a = s.outBuf.read a ∨ ∃ v, P[a]? = some v ∧ t.outBuf.read a = some v

/-- R60: OutBuf of `t` is that of `s` with the bytes `P` at the indices from 0 upward, and no other byte changed. -/
def writtenFrom (s t : State) (P : List Byte) : Prop :=
  ∀ a, t.outBuf.read a = if a < P.length then P[a]? else s.outBuf.read a

/-! ### What a chip may do -/

/-- R264: the request on the port is one that the model answers REFUSED, were no reset to come. -/
def State.Refuses (s : State) : Prop :=
  s.request ≠ none ∧ ∃ t c, step { s with resetIn := false } = .next t ∧ t.request = none ∧ t.response = some (.refused c)

/-- R262: the sub-causes of a token. -/
abbrev ValidationCause.IsToken (c : ValidationCause) : Prop :=
  c ∈ [.tokEmpty, .tokNoInteger, .tokMcsRange, .tokSeparator, .tokNss, .tokTrailing]

/-- The states that a chip may be in after a step from `s`. A claim of a chip is a claim of every such state; a claim of
`step` is one of the model, which settles what the arms below leave open (log entries 2, 3, 6 and 16). -/
inductive ChipStep (s u : State) : Prop where
  /-- what the model does -/
  | asModel (made : step s = .next u)
  /-- R264: a chip may do anything with a request that is REFUSED, also when reset cuts it (log entry 3) -/
  | refused (refuses : s.Refuses)
  /-- where the model stops, it says nothing of a chip -/
  | stopped (stops : ∀ t, step s ≠ .next t)
  /-- R162, 93_implementation_defined.md I17: of a token that is VALIDATION a claim may rely on the status, not on the
  sub-cause, so a chip may give any sub-cause of a token (log entry 16) -/
  | tokenFault (c c' : ValidationCause) (given : c.IsToken) (other : c'.IsToken) (asked : s.request ≠ none)
      (made : step s = .next (s.respond (.validation c))) (rest : u = s.respond (.validation c'))
  /-- R71: after TRANSPORT each OutBuf byte of the payload is its old value or the payload's, whichever the model drew -/
  | sendDraws (t : State) (P : List Byte) (c : TransportCause) (asked : s.request ≠ none) (made : step s = .next t)
      (ended : t.request = none) (failed : t.response = some (.transport c)) (image : s.inFlightImage = some (P, true))
      (wf : s.outBuf.wf → u.outBuf.wf) (drawn : drawnFrom s u P)
      (rest : u = { t with outBuf := u.outBuf, draws := u.draws })
  /-- R291: at reset likewise, and whether the frame in flight was sent (log entry 6) -/
  | resetDraws (P : List Byte) (isFrame : Bool) (reset : s.resetIn = true) (image : s.inFlightImage = some (P, isFrame))
      (wf : s.outBuf.wf → u.outBuf.wf) (drawn : drawnFrom s u P)
      (made : u.calls = s.calls ∨
        isFrame = true ∧ (u.calls = s.callsIfSent P ∨ ∃ assocMade, u.calls = s.callsIfNotSent assocMade))
      (rest : u = { s.applyReset with outBuf := u.outBuf, calls := u.calls, draws := u.draws })

end Machine

end Sys2Proof
end

