-- ==== Sys2Proof/Certificates/Slice0/Obligations.lean ====
section
/-! DEFINITION. The statements about the block, from the numbered rules of spec/. None is proved here. `s.respond r` in a
statement is the state `s` with the request gone from its port, no call outstanding and `r` on the response port, and
nothing else changed: `ResponseEndsRequest` says so. A statement of `step` or `exec` is one of the model. What a claim of a chip may rely on is `ChipStep`
(Safety.lean; log entries 2, 3, 6 and 16), and `ResponseCodesAreTheTables` says it of every step. -/

open Sys2Proof Sys2Proof.Machine

/-! ### Framing and decoding -/

/-- Descriptors written out byte by byte from the layouts of R81 to R83, one or more for each op code, and what each
decodes to. The spec marks as its own: R81 (D2), R82 (D2, D22), R83 (D2). -/
def Obligations.SampleDescriptorsDecode : Prop :=
  decode [0x01, 0x03, 0x00, 0xF3, 0x04, 0x00] =
    .ok (.rspecEncode ⟨.he, 0, 3, 15, 0, 1, false, false, false, false, 0, false, false⟩) ∧
  decode [0x01, 0x03, 0x00, 0x8B, 0x70, 0x39] =
    .ok (.rspecEncode ⟨.he, 0, 11, 8, 0, 4, true, false, false, true, 3, true, true⟩) ∧
  decode [0x02, 0xF3, 0x00, 0x01, 0x03] = .ok (.rspecDecode 0x030100F3) ∧
  decode [0x03, 0x03, 0x35, 0x78, 0x32] = .ok (.rspecParsetok (ascii "5x2")) ∧
  decode [0x04, 0x02, 0x02, 0x2D, 0x72, 0x03, 0x35, 0x2E, 0x35] = .ok (.rspecParsecmd [ascii "-r", ascii "5.5"]) ∧
  decode [0x10, 0xC4] = .ok (.twtCtrlmap 0xC4) ∧
  decode [0x11, 0x04, 0x2A, 0x07, 0x0A, 0x58, 0x02, 0x08, 0x77, 0x66, 0x55, 0x44, 0x33, 0x22, 0x11, 0x00, 0x24, 0x15, 0x05] =
    .ok (.twtSetup 7 ⟨0x04, 0x2A, 10, 600, 8, 0x0011223344556677, 36, true, false, true, false, true, 5⟩) ∧
  decode [0x12, 0xE5] = .ok (.twtTdmap 0xE5) ∧
  decode [0x13, 0x80] = .ok (.twtTeardown 0x80) ∧
  decode [0x14, 0x01, 0x02] = .ok (.twtProfile 1 2)

/-- Every op code outside the table of R81 is answered ILLEGAL_OP whatever follows it, and nothing is written or called.
The spec marks as its own: R81 (D2), R266 (derived). -/
def Obligations.IllegalOpCodesAnswered : Prop :=
  ∀ (s : State) (r : Request) (op : Byte) (rest : List Byte), s.takes r → r.desc = op :: rest →
    op ∉ ([0x01, 0x02, 0x03, 0x04, 0x10, 0x11, 0x12, 0x13, 0x14] : List Byte) →
    step s = .next (s.respond .illegalOp)

/-- R80 and R85: an empty descriptor, a descriptor whose length is not its op code's fixed one, a token descriptor whose
length byte is not the number of token bytes, and a command descriptor that is not `N` whole entries, are all answered
MALFORMED, and nothing is written or called. The spec marks as its own: R80 (D2), R83 (D2), R85 (D2). -/
def Obligations.WrongLengthsMalformed : Prop :=
  ∀ (s : State) (r : Request), s.takes r →
    (r.desc = [] → step s = .next (s.respond .malformed)) ∧
    (∀ op n rest, (op, n) ∈ ([(0x01, 6), (0x02, 5), (0x10, 2), (0x11, 19), (0x12, 2), (0x13, 2), (0x14, 3)] :
        List (Byte × Nat)) → r.desc = op :: rest → r.desc.length ≠ n → step s = .next (s.respond .malformed)) ∧
    (r.desc = [0x03] → step s = .next (s.respond .malformed)) ∧
    (∀ l t, r.desc = 0x03 :: l :: t → r.desc.length ≠ 2 + l.toNat → step s = .next (s.respond .malformed)) ∧
    (∀ rest, r.desc = 0x04 :: rest →
      (¬ ∃ args : List Str, args.length ≤ 255 ∧ (∀ a ∈ args, a.length ≤ 255) ∧
        rest = BitVec.ofNat 8 args.length :: args.flatMap fun a => BitVec.ofNat 8 a.length :: a) →
      step s = .next (s.respond .malformed))

/-- R84: with the right length, a reserved bit of R82 that is 1 refuses the request, before any check of the operation,
and nothing is written or called; with none, the descriptor decodes. The spec marks as its own: R82 (D2, D22), R84 (D22).
The model's choice: log entry 3. -/
def Obligations.ReservedBitsRefused : Prop :=
  ∀ (s : State) (r : Request), s.takes r →
    (∀ b1 b2 b3 b4 b5 : Byte, r.desc = [0x01, b1, b2, b3, b4, b5] →
      if b1.toNat < 4 ∧ b2.toNat < 128 ∧ b4.toNat < 128 ∧ b5.toNat < 64 then ∃ i, decode r.desc = .ok i
      else step s = .next (s.respond (.refused .reservedValue))) ∧
    (∀ l : List Byte, l.length = 18 → r.desc = 0x11 :: l →
      if (l.getD 3 0).toNat < 32 ∧ (l.getD 16 0).toNat < 32 ∧ (l.getD 17 0).toNat < 8 then ∃ i, decode r.desc = .ok i
      else step s = .next (s.respond (.refused .reservedValue)))

/-- Decode after encode: every well-formed instruction's descriptor decodes to its operation, with every operand at every
value the layout admits; a class row is the row's operation on an operand of the class, and the second-level decode of
that operation gives the class row back. The spec marks as its own: R82 (D2, D22), R83 (D2), R93 (derived), R95 (derived),
R97 (derived), R100 (D27, D28). The model's choice: log entry 10. -/
def Obligations.DecodeInvertsEncode : Prop :=
  ∀ i : Instr, i.wellFormed = true →
    decode (encode i) = .ok (operationOf i) ∧ (operationOf i ≠ i → classOf (operationOf i) = some i)

/-- Encode after decode: a descriptor that decodes is the encoding of what it decodes to, so no two descriptors stand for
one request and no bit of a descriptor is dropped. The spec marks as its own: R80 (D2), R82 (D2, D22), R83 (D2), R84
(D22), R85 (D2). -/
def Obligations.EncodeInvertsDecode : Prop :=
  ∀ (desc : List Byte) (i : Instr), decode desc = .ok i → encode i = desc ∧ i.wellFormed = true ∧ operationOf i = i

/-- R93: every word falls in exactly one class once AUTO is taken first. The spec marks as its own: R92 (derived), R93
(derived). The model's choice: log entry 10. -/
def Obligations.EveryWordHasOneClass : Prop :=
  ∀ w : Word, ∃! i : Instr, i ≠ .rspecDecode w ∧ i.wellFormed = true ∧ operationOf i = .rspecDecode w

/-- A class row of the opcode table runs as its operation does on an operand of the class. The spec marks as its own: R93
(derived), R95 (derived), R97 (derived), R100 (D27, D28). The model's choice: log entry 10. -/
def Obligations.ClassRowsRunAsOperations : Prop :=
  ∀ (i : Instr) (s : State), i.wellFormed = true → exec i s = exec (operationOf i) s

/-- The pseudo-operations of R104 expand to these requests, RSPEC.HE for every `m` and `s`. The spec marks as its own:
R104 (D2). -/
def Obligations.PseudoOperationsExpand : Prop :=
  encode pseudoAuto = [0x01, 0x00, 0x00, 0x00, 0x00, 0x00] ∧ encode pseudoTeardownAll = [0x13, 0x80] ∧
  ∀ m s : Str, pseudoHe m s = .rspecParsecmd [ascii "-e", m ++ ascii "x" ++ s] ∧
    encode (pseudoHe m s) = [0x04, 0x02, 0x02, 0x2D, 0x65, BitVec.ofNat 8 (m.length + 1 + s.length)] ++ m ++ 0x78 :: s

/-! ### The step -/

/-- A response ends its request: the request leaves the port, no call is outstanding, the response is on its port, and
nothing else changes (R35, R268). The spec marks as its own: R35 (D1), R268 (D35). The model's choice: log entry 11. -/
def Obligations.ResponseEndsRequest : Prop :=
  ∀ (s : State) (r : Response), s.respond r = { s with request := none, call := none, response := some r }

/-- A step runs the decoded request: when the descriptor on the request port decodes to `i`, the step is `exec i`. A
descriptor that the decoder rejects is answered with the rejection, and with no request the block waits for one. The spec
marks as its own: R80 (D2), R298 (D38). The model's choice: log entries 3, 11, 14. -/
def Obligations.StepRunsDecodedRequest : Prop :=
  (∀ (s : State) (r : Request) (i : Instr), s.takes r → decode r.desc = .ok i → step s = exec i s) ∧
  (∀ (s : State) (r : Request) (e : DecodeError), s.takes r → decode r.desc = .error e →
    step s = .next (s.respond (rejection e))) ∧
  (∀ s : State, s.resetIn = false → s.request = none → step s = .next s)

/-- R35: a request that is taken, or goes on, ends in exactly one response with its port free and no call outstanding, or
it waits on its port with a call outstanding and no response. The spec marks as its own: R35 (D1), R298 (D38). The model's
choice: log entries 3, 11, 14. -/
def Obligations.OneResponsePerRequest : Prop :=
  ∀ (s t : State) (r : Request), s.resetIn = false → s.request = some r → step s = .next t →
    (t.request = none ∧ t.call = none ∧ t.response ≠ none) ∨
    (t.request = some r ∧ t.call ≠ none ∧ t.response = s.response ∧ t.outBuf = s.outBuf)

/-- R34: no step changes a field of CFG. The spec marks as its own: R34 (D8, D10, D27, D7), R290 (D36). The model's
choice: log entry 3. -/
def Obligations.ConfigurationNeverChanges : Prop :=
  ∀ s t : State, step s = .next t → t.cfg = s.cfg

/-- R43: the response, the calls made, and the bytes an OK or refused request writes, depend on the request, CFG and the
collaborators' answers alone: not on OutBuf, an earlier response, earlier calls or the draws. The spec marks as its own:
R71 (D30). The model's choice: log entries 2, 3, 7. -/
def Obligations.ResponseDependsOnlyOnInputs : Prop :=
  ∀ (s s' t t' : State) (r : Request), s.takes r → s'.takes r → s.cfg = s'.cfg →
    s.assocAnswers = s'.assocAnswers → s.txAnswers = s'.txAnswers → step s = .next t → step s' = .next t' →
    t.request = t'.request ∧ t.call = t'.call ∧ (t.request = none → t.response = t'.response) ∧
    t.assocAnswers = t'.assocAnswers ∧ t.txAnswers = t'.txAnswers ∧
    (∃ l, t.calls = s.calls ++ l ∧ t'.calls = s'.calls ++ l) ∧
    (t.request = none → (∀ c, t.response ≠ some (.transport c)) →
      ∃ P, writtenFrom s t P ∧ writtenFrom s' t' P)

/-- R70 and the VALIDATION, UNSUPPORTED_ENCODING, ILLEGAL_OP, MALFORMED and REFUSED rows of R266: such a response is all
that the request leaves, so OutBuf is unchanged and neither Assoc nor Tx was called. (REFUSED is the model's own status,
R264.) The spec marks as its own: R264 (D11, D41), R266 (derived). The model's choice: log entry 3. -/
def Obligations.ErrorResponsesLeaveNothing : Prop :=
  ∀ (s t : State) (r : Request) (x : Response), s.resetIn = false → s.request = some r → step s = .next t →
    t.request = none → t.response = some x → x.status ≠ .ok → x.status ≠ .transport → t = s.respond x

/-- R37 and R77: within one request, at most one Assoc call and then at most one Tx call, the Tx call with the requester's
context unread; and only TWT.SETUP and TWT.TEARDOWN requests that pass their checks make any. When such a request goes on,
an outstanding Assoc call is followed by at most one Tx call, of the payload pending, and an outstanding Tx call by none.
The spec marks as its own: R36 (D31), R37 (D29, D31), R77 (D37), R213 (D29, D30, D31). The model's choice: log entry 3. -/
def Obligations.PortCallOrder : Prop :=
  (∀ (s t : State) (r : Request), s.takes r → step s = .next t →
    t.calls = s.calls ∨
    ∃ i P, decode r.desc = .ok i ∧ Sends s i P ∧
      (t.calls = s.calls ++ [.assoc] ∨ t.calls = s.calls ++ [.assoc, .tx P r.txCtx])) ∧
  (∀ (s t : State) (r : Request) (P : List Byte), s.resetIn = false → s.request = some r → step s = .next t →
    (s.call = some ⟨.assoc, P⟩ → t.calls = s.calls ∨ t.calls = s.calls ++ [.tx P r.txCtx]) ∧
    (s.call = some ⟨.tx, P⟩ → t.calls = s.calls))

/-- R60: an instruction that is not an RSPEC.ENCODE, a TWT.SETUP or a TWT.TEARDOWN writes no OutBuf byte; it gives its
response and changes nothing else. The spec marks as its own: R60 (D41). The model's choice: log entry 3. -/
def Obligations.OnlyThreeOperationsWriteOutBuf : Prop :=
  ∀ (i : Instr) (s : State), (∀ p, operationOf i ≠ .rspecEncode p) → (∀ cmd p, operationOf i ≠ .twtSetup cmd p) →
    (∀ f, operationOf i ≠ .twtTeardown f) → ∃ x, exec i s = .next (s.respond x)

/-- R136 and R262: no step gives the unreachable responses UNSUPPORTED_ENCODING and VALIDATION(NEGO_TYPE). The spec marks
as its own: R136 (D9), R262 (D14, D33). The model's choice: log entries 3, 13. -/
def Obligations.UnreachableResponsesNeverGiven : Prop :=
  ∀ (s t : State) (r : Request), s.resetIn = false → s.request = some r → step s = .next t → t.request = none →
    t.response ≠ some (.validation .negoType) ∧ ∀ x, t.response ≠ some (.unsupportedEncoding x)

/-- Every step keeps the invariant: legal CFG, OutBuf in canonical form, and an outstanding call that belongs to the
request and fits its OutBuf. The spec marks as its own: R34 (D8, D10, D27, D7), R44 (D36), R60 (D41), R61 (D41). The
model's choice: log entries 3, 4, 14. -/
def Obligations.StepKeepsInvariant : Prop :=
  ∀ s t : State, s.Inv → step s = .next t → t.Inv

/-- The invariant holds after reset, whatever the built values of the OPEN parameters are. The spec marks as its own: R34
(D8, D10, D27, D7), R44 (D36). The model's choice: log entries 1, 4. -/
def Obligations.InvariantAtReset : Prop := State.reset.Inv

/-- From every state that keeps the invariant, every run is safe: no step ever faults or is refused. The spec marks as its
own: R60 (D41), R61 (D41), R63 (D41). The model's choice: log entries 3, 4. -/
def Obligations.RunsNeverStop : Prop := ∀ s : State, s.Inv → s.Safe

/-- R75: requests are independent. In any interleaving of the requesters' lanes, each lane ends as it does when it runs
alone for the number of steps that the schedule gives it. The model's choice: log entries 3, 8. -/
def Obligations.InterleavingsAgree : Prop :=
  ∀ (F G : Fleet) (schedule : List Nat), F.run schedule = .next G →
    G.lanes.length = F.lanes.length ∧
    ∀ (j : Nat) (s : State), F.lanes[j]? = some s →
      ∃ t, G.lanes[j]? = some t ∧ Host.Core.run Sys2Proof.core (schedule.count j) s = .next t

/-- R44, R290, R291: reset keeps CFG, leaves no request, no response and no outstanding call, and takes a request at once;
each OutBuf byte is its old one or the request in flight's, and the collaborators' answers are untouched. The bytes of an
RSPEC.ENCODE in flight are its four wire bytes, and a request that would neither encode nor send has none. With a request
that would be REFUSED in flight, that is the model's own, and a chip may do anything (R264). The spec marks as its own:
R44 (D36), R264 (D11, D41), R290 (D36), R291 (D36). The model's choice: log entries 2, 3, 6. -/
def Obligations.ResetClearsPorts : Prop :=
  ∀ s : State, s.resetIn = true →
    ∃ t, step s = .next t ∧ t.cfg = s.cfg ∧ t.request = none ∧ t.response = none ∧ t.call = none ∧ t.resetIn = false ∧
      t.assocAnswers = s.assocAnswers ∧ t.txAnswers = s.txAnswers ∧
      (s.request = none → s.call = none → t.outBuf = s.outBuf ∧ t.calls = s.calls) ∧
      (∀ P isFrame, s.inFlightImage = some (P, isFrame) → drawnFrom s t P ∧ (isFrame = false → t.calls = s.calls)) ∧
      (s.inFlightImage = none → t.outBuf = s.outBuf ∧ t.calls = s.calls) ∧
      (∀ r, s.request = some r → s.call = none →
        (∀ p, decode r.desc = .ok (.rspecEncode p) → p.meetsPre → 4 ≤ r.outCap →
          ∃ (w : Word) (P : List Byte), w = pack s.cfg p ∧
            P = (match s.cfg.wireOrder with
              | .le => [field w 0 8, field w 8 8, field w 16 8, field w 24 8]
              | .be => [field w 24 8, field w 16 8, field w 8 8, field w 0 8]) ∧
            s.inFlightImage = some (P, false) ∧ drawnFrom s t P ∧ t.calls = s.calls) ∧
        ((∀ p, decode r.desc = .ok (.rspecEncode p) → ¬ (p.meetsPre ∧ 4 ≤ r.outCap)) →
          (∀ i P, decode r.desc = .ok i → ¬ Sends s i P) →
          s.inFlightImage = none ∧ t.outBuf = s.outBuf ∧ t.calls = s.calls)) ∧
      (s.Refuses → ∀ u, ChipStep s u)

/-- R291: whether the frame in flight reached the transmitter is a draw. With its Tx call outstanding, the call stays
among the calls the collaborators have had, or does not; with its Assoc call outstanding, the Tx call joins them or does
not; and with no call outstanding, it has made none, its Assoc call, or both, where that the Assoc call alone may have
been made is the model's draw. The spec marks as its own: R213 (D29, D30, D31), R291 (D36). The model's choice: log
entries 2, 6. -/
def Obligations.ResetDrawsTheSend : Prop :=
  (∀ (s : State) (P ctx : List Byte) (earlier : List PortCall), s.resetIn = true → s.call = some ⟨.tx, P⟩ →
    s.calls = earlier ++ [.tx P ctx] →
    ∃ t, step s = .next t ∧ drawnFrom s t P ∧ (t.calls = s.calls ∨ t.calls = earlier)) ∧
  (∀ (s : State) (P : List Byte), s.resetIn = true → s.call = some ⟨.assoc, P⟩ →
    ∃ t, step s = .next t ∧ drawnFrom s t P ∧ (t.calls = s.calls ∨ t.calls = s.calls ++ [.tx P s.txCtx])) ∧
  (∀ (s : State) (P : List Byte) (r : Request) (i : Instr), s.resetIn = true → s.request = some r → s.call = none →
    decode r.desc = .ok i → Sends s i P → s.inFlightImage = some (P, true) ∧
    ∃ t, step s = .next t ∧ drawnFrom s t P ∧
      (t.calls = s.calls ∨ t.calls = s.calls ++ [.assoc] ∨ t.calls = s.calls ++ [.assoc, .tx P r.txCtx]))

/-! ### RSPEC.ENCODE and RSPEC.DECODE -/

/-- R121 and R86: where `PACK` places each field, and which bits stay 0. The spec marks as its own: R86 (D3, D6), R87
(D4), R90 (D7), R91 (D5, D6), R121 (D3, D5, D7). -/
def Obligations.PackPlacesEveryField : Prop :=
  ∀ (cfg : Cfg) (p : RsParams),
    field (pack cfg p) 24 2 = p.enc.code ∧
    ((p.enc = .legacy ∨ p.enc = .ht) → field (pack cfg p) 0 7 = p.rate ∧ (pack cfg p).getLsbD 7 = false) ∧
    ((p.enc = .vht ∨ p.enc = .he) → field (pack cfg p) 0 4 = p.mcs ∧ field (pack cfg p) 4 4 = p.nss) ∧
    field (pack cfg p) 8 2 = p.txexp ∧ field (pack cfg p) 16 3 = p.bw ∧
    (pack cfg p).getLsbD 20 = p.stbc ∧ (pack cfg p).getLsbD 22 = p.ldpc ∧ (pack cfg p).getLsbD 23 = p.sgi ∧
    (p.enc = .he → field (pack cfg p) 10 2 = p.heGi ∧ (pack cfg p).getLsbD 19 = p.dcm ∧
      (pack cfg p).getLsbD 15 = p.erEn ∧
      (pack cfg p).getLsbD 14 = (p.erEn && (if p.er106 then cfg.erTone106 else !cfg.erTone106))) ∧
    (p.enc ≠ .he → field (pack cfg p) 10 2 = 0 ∧ (pack cfg p).getLsbD 19 = false ∧ (pack cfg p).getLsbD 15 = false ∧
      (pack cfg p).getLsbD 14 = false) ∧
    field (pack cfg p) 12 2 = 0 ∧ (pack cfg p).getLsbD 21 = false ∧ field (pack cfg p) 26 6 = 0

/-- R122, R65 and R62: RSPEC.ENCODE of operands that meet the precondition, with room for 4 bytes, gives the word, writes
its four wire bytes in the configured order at indices 0 to 3, and changes nothing else. The spec marks as its own: R121
(D3, D5, D7), R123 (D11, D12), R65 (D10), R62 (D41). -/
def Obligations.EncodeCompletes : Prop :=
  ∀ (p : RsParams) (s : State), p.meetsPre → 4 ≤ s.outCap →
    ∃ (t : State) (w : Word), exec (.rspecEncode p) s = .next t ∧ w = pack s.cfg p ∧
      t.response = some (.ok (.word w)) ∧
      writtenFrom s t (match s.cfg.wireOrder with
        | .le => [field w 0 8, field w 8 8, field w 16 8, field w 24 8]
        | .be => [field w 24 8, field w 16 8, field w 8 8, field w 0 8]) ∧
      t = { s with request := none, call := none, response := t.response, outBuf := t.outBuf }

/-- R123: operands that break the precondition are refused, with nothing written, whatever `out_cap` is. That is the
model's status; of a chip that gets such a request nothing is claimed (R264). The spec marks as its own: R123 (D11, D12),
R264 (D11, D41). The model's choice: log entry 3. -/
def Obligations.EncodePreconditionRefused : Prop :=
  ∀ (p : RsParams) (s : State), ¬ p.meetsPre →
    exec (.rspecEncode p) s = .next (s.respond (.refused .precondition)) ∧
    ∀ r t, s.takes r → decode r.desc = .ok (.rspecEncode p) → ChipStep s t

/-- R61: an operation that passes its own checks and finds its OutBuf too small is refused and writes nothing: 4 bytes for
RSPEC.ENCODE, 20 for TWT.SETUP, 3 for TWT.TEARDOWN. That is the model's status; of a chip that gets such a request nothing
is claimed (R264). The spec marks as its own: R61 (D41), R210 (D29), R223 (D28, D29), R264 (D11, D41). The model's choice:
log entry 3. -/
def Obligations.ShortBuffersRefused : Prop :=
  (∀ (p : RsParams) (s : State), p.meetsPre → s.outCap < 4 →
    exec (.rspecEncode p) s = .next (s.respond (.refused .buffer)) ∧
    ∀ r t, s.takes r → decode r.desc = .ok (.rspecEncode p) → ChipStep s t) ∧
  (∀ (cmd : Byte) (p : TwtParams) (s : State), cmd.toNat ≤ 7 → s.outCap < 20 →
    exec (.twtSetup cmd p) s = .next (s.respond (.refused .buffer)) ∧
    ∀ r t, s.takes r → decode r.desc = .ok (.twtSetup cmd p) → ChipStep s t) ∧
  (∀ (f : Byte) (s : State), s.outCap < 3 →
    exec (.twtTeardown f) s = .next (s.respond (.refused .buffer)) ∧
    ∀ r t, s.takes r → decode r.desc = .ok (.twtTeardown f) → ChipStep s t)

/-- R131 and R135, with the strings of R132 to R134: RSPEC.DECODE's word is its four operand bytes, the low one first, and
it answers OK for every word, with the string of its class written out, the numerals of R11, the bandwidth labels of R88
and the GI labels of R89 among it, and changes nothing else. The spec marks as its own: R11 (D9), R130 (D7, D8), R132
(D6), R133 (D6), R134 (D39), R86 (D3, D6). -/
def Obligations.DecodeGivesTheString : Prop :=
  (∀ b1 b2 b3 b4 : Byte, decode [0x02, b1, b2, b3, b4] = .ok (.rspecDecode
    (b1.setWidth 32 ||| b2.setWidth 32 <<< 8 ||| b3.setWidth 32 <<< 16 ||| b4.setWidth 32 <<< 24))) ∧
  (∀ n : Nat, dec n ≠ [] ∧ (∀ b ∈ dec n, 0x30 ≤ b.toNat ∧ b.toNat ≤ 0x39) ∧
    (dec n).foldl (fun v b => 10 * v + (b.toNat - 0x30)) 0 = n ∧ (n ≠ 0 → (dec n).head? ≠ some 0x30#8) ∧
    dec 0 = ascii "0") ∧
  (bwLabel 0 = ascii "auto" ∧ bwLabel 1 = ascii "20" ∧ bwLabel 2 = ascii "40" ∧ bwLabel 3 = ascii "80" ∧
    bwLabel 4 = ascii "160" ∧ bwLabel 5 = ascii "10" ∧ bwLabel 6 = ascii "5" ∧ bwLabel 7 = ascii "2.5") ∧
  (∀ cfg : Cfg, hegiLabel cfg 0 = cfg.lblHegi0 ∧ hegiLabel cfg 1 = cfg.lblHegi1 ∧ hegiLabel cfg 2 = cfg.lblHegi2 ∧
    hegiLabel cfg 3 = cfg.lblHegi3) ∧
  ∀ (w : Word) (s : State),
    exec (.rspecDecode w) s = .next (s.respond (.ok (.string
      (if w &&& 0xFFFFFCFF#32 = 0#32 then ascii "auto"
       else if field w 24 2 = 0#2 then
        ascii "rate " ++ dec ((field w 0 8).toNat / 2) ++ (if (field w 0 8).toNat % 2 = 1 then ascii ".5" else []) ++
          ascii " Mbps Tx Exp " ++ dec (field w 8 2).toNat
       else
        (if field w 24 2 = 1#2 then ascii "ht mcs " ++ dec (field w 0 7).toNat
         else (if field w 24 2 = 2#2 then ascii "vht mcs " else ascii "he mcs ") ++ dec (field w 0 4).toNat ++
          ascii " Nss " ++ dec (field w 4 4).toNat) ++
        ascii " Tx Exp " ++ dec (field w 8 2).toNat ++ ascii " BW " ++ bwLabel (field w 16 3) ++
        (if w.getLsbD 20 then s.cfg.lblStbc else []) ++ (if w.getLsbD 22 then s.cfg.lblLdpc else []) ++
        (if field w 24 2 = 3#2 then
          hegiLabel s.cfg (field w 10 2) ++ (if w.getLsbD 19 then s.cfg.lblDcm else []) ++
            (if w.getLsbD 15 = false then [] else if w.getLsbD 14 = s.cfg.erTone106 then ascii " er 106" else ascii " er 242")
         else if w.getLsbD 23 then s.cfg.lblSgi else [])))))

/-- The RSPEC_WORD rows complete: each gives the string of its class (R93, R131 to R135) on a word that has the row's
fixed bits (for LEGACY, one that is not the AUTO word), and changes nothing else. The spec marks as its own: R93
(derived), R132 (D6), R133 (D6), R134 (D39). The model's choice: log entry 10. -/
def Obligations.WordClassesComplete : Prop :=
  (∀ txexp s, exec (.wordAuto txexp) s = .next (s.respond (.ok (.string (ascii "auto"))))) ∧
  (∀ hi lo s, (Instr.wordLegacy hi lo).wellFormed = true →
    exec (.wordLegacy hi lo) s = .next (s.respond (.ok (.string (legacyString (hi.setWidth 32 <<< 26 ||| 0#32 <<< 24 ||| lo.setWidth 32)))))) ∧
  (∀ hi lo s, exec (.wordHt hi lo) s = .next (s.respond (.ok (.string (htString s.cfg (hi.setWidth 32 <<< 26 ||| 1#32 <<< 24 ||| lo.setWidth 32)))))) ∧
  (∀ hi lo s, exec (.wordVht hi lo) s = .next (s.respond (.ok (.string (vhtString s.cfg (hi.setWidth 32 <<< 26 ||| 2#32 <<< 24 ||| lo.setWidth 32)))))) ∧
  (∀ hi lo s, exec (.wordHe hi lo) s = .next (s.respond (.ok (.string (heString s.cfg (hi.setWidth 32 <<< 26 ||| 3#32 <<< 24 ||| lo.setWidth 32))))))

/-- R92: RSPEC.DECODE gives `"auto"` exactly for the words that are zero outside `txexp`. The spec marks as its own: R92
(derived). -/
def Obligations.AutoExactlyTheAutoWord : Prop :=
  ∀ (w : Word) (s : State),
    exec (.rspecDecode w) s = .next (s.respond (.ok (.string (ascii "auto")))) ↔ w &&& 0xFFFFFCFF#32 = 0#32

/-- R91: RSPEC.ENCODE writes the reserved bits 13:12, 21 and 31:26 as 0, and RSPEC.DECODE ignores them outside the auto
test; for HT it ignores bit 7 of the rate field too. The spec marks as its own: R91 (D5, D6). -/
def Obligations.ReservedWordBitsIgnored : Prop :=
  (∀ cfg p, pack cfg p &&& 0xFC203000#32 = 0#32) ∧
  (∀ (w w' : Word) (s : State), w &&& 0xFFFFFCFF#32 ≠ 0#32 → w' &&& 0xFFFFFCFF#32 ≠ 0#32 →
    w &&& 0x03DFCFFF#32 = w' &&& 0x03DFCFFF#32 → exec (.rspecDecode w) s = exec (.rspecDecode w') s) ∧
  (∀ (w w' : Word) (s : State), field w 24 2 = 1#2 → w &&& 0x03DFCF7F#32 = w' &&& 0x03DFCF7F#32 →
    exec (.rspecDecode w) s = exec (.rspecDecode w') s)

/-- R139, the documented string form: RSPEC.DECODE of an encoded word that is not auto shows the encoding's name and the
operands themselves, whichever polarity the ER tone bit has. The spec marks as its own: R139 (derived), R123 (D11, D12),
R132 (D6), R133 (D6), R134 (D39), R90 (D7). -/
def Obligations.EncodedWordsDisplayTheirOperands : Prop :=
  ∀ (p : RsParams) (s : State), p.meetsPre → pack s.cfg p &&& 0xFFFFFCFF#32 ≠ 0#32 →
    exec (.rspecDecode (pack s.cfg p)) s = .next (s.respond (.ok (.string
      (match p.enc with
       | .legacy => ascii "rate " ++ dec (p.rate.toNat / 2) ++ (if p.rate.toNat % 2 = 1 then ascii ".5" else []) ++
          ascii " Mbps Tx Exp " ++ dec p.txexp.toNat
       | .ht => ascii "ht mcs " ++ dec p.rate.toNat ++ ascii " Tx Exp " ++ dec p.txexp.toNat ++
          ascii " BW " ++ bwLabel p.bw ++ (if p.stbc then s.cfg.lblStbc else []) ++
          (if p.ldpc then s.cfg.lblLdpc else []) ++ (if p.sgi then s.cfg.lblSgi else [])
       | .vht => ascii "vht mcs " ++ dec p.mcs.toNat ++ ascii " Nss " ++ dec p.nss.toNat ++
          ascii " Tx Exp " ++ dec p.txexp.toNat ++ ascii " BW " ++ bwLabel p.bw ++
          (if p.stbc then s.cfg.lblStbc else []) ++ (if p.ldpc then s.cfg.lblLdpc else []) ++
          (if p.sgi then s.cfg.lblSgi else [])
       | .he => ascii "he mcs " ++ dec p.mcs.toNat ++ ascii " Nss " ++ dec p.nss.toNat ++
          ascii " Tx Exp " ++ dec p.txexp.toNat ++ ascii " BW " ++ bwLabel p.bw ++
          (if p.stbc then s.cfg.lblStbc else []) ++ (if p.ldpc then s.cfg.lblLdpc else []) ++
          hegiLabel s.cfg p.heGi ++ (if p.dcm then s.cfg.lblDcm else []) ++
          (if p.erEn then (if p.er106 then ascii " er 106" else ascii " er 242") else [])))))

/-- R139, recoverability: whatever the labels are, the displayed string of an encoded word that is not auto determines the
encoding, `txexp`, the rate or the MCS and NSS, and for HT, VHT and HE the bandwidth. The spec marks as its own: R139
(derived), R123 (D11, D12). -/
def Obligations.DisplayDeterminesFields : Prop :=
  ∀ (p q : RsParams) (s : State), p.meetsPre → q.meetsPre → pack s.cfg p &&& 0xFFFFFCFF#32 ≠ 0#32 →
    pack s.cfg q &&& 0xFFFFFCFF#32 ≠ 0#32 →
    exec (.rspecDecode (pack s.cfg p)) s = exec (.rspecDecode (pack s.cfg q)) s →
    p.enc = q.enc ∧ p.txexp = q.txexp ∧
    ((p.enc = .legacy ∨ p.enc = .ht) → p.rate = q.rate) ∧
    ((p.enc = .vht ∨ p.enc = .he) → p.mcs = q.mcs ∧ p.nss = q.nss) ∧
    (p.enc ≠ .legacy → p.bw = q.bw)

/-- R12: with a legal CFG, every string that RSPEC.DECODE gives is ASCII. The spec marks as its own: R12 (D13), R34 (D8,
D10, D27, D7). -/
def Obligations.DisplayStringsAreAscii : Prop :=
  ∀ (w : Word) (s : State), s.cfg.legal →
    ∃ x, exec (.rspecDecode w) s = .next (s.respond (.ok (.string x))) ∧ Str.isAscii x

/-! ### RSPEC.PARSETOK and RSPEC.PARSECMD -/

/-- RSPEC.PARSETOK and RSPEC.PARSECMD complete on every operand: a token's answer and a command's word or error are the
response, and nothing else changes. The spec marks as its own: R162 (D13, D14), R172 (D17, D18, D19, D20, D21). The
model's choice: log entries 3, 12, 16. -/
def Obligations.TextParsersComplete : Prop :=
  (∀ (t : Str) (s : State), exec (.rspecParsetok t) s = .next (s.respond
    (match ptok t with
     | .valid m n => .ok (.pair m n)
     | .invalid c => .validation c
     | .unsettled => .refused .unsettledForm))) ∧
  (∀ (args : List Str) (s : State), exec (.rspecParsecmd args) s = .next (s.respond
    (match parseCmd args with
     | .ok p => .ok (.word (pack s.cfg p))
     | .error x => x)))

/-- The tokens that `PTOK` of R162 accepts, as a grammar: an MCS of 0 to 11 in decimal digits, the separator `x`, or `s`
after a leading `c`, one digit NSS of 1 to 8, and whitespace; with the sets WS and DIGIT of R12, the signs, and the value
of a digit run of R160 written out. The spec marks as its own: R12 (D13), R160 (D13), R162 (D13, D14). -/
def Obligations.AcceptedTokensAreTheGrammar : Prop :=
  ((∀ b : Byte, isWs b = true ↔ b ∈ [0x20#8, 0x09#8, 0x0A#8, 0x0B#8, 0x0C#8, 0x0D#8]) ∧
    (∀ b : Byte, isDigit b = true ↔ 0x30 ≤ b.toNat ∧ b.toNat ≤ 0x39) ∧
    (∀ b : Byte, isSign b = true ↔ b ∈ ascii "+-") ∧ (∀ b : Byte, digitVal b = b.toNat - 0x30) ∧ digitsValue [] = 0 ∧
    ∀ (ds : Str) (d : Byte), digitsValue (ds ++ [d]) = 10 * digitsValue ds + (d.toNat - 0x30)) ∧
  ∀ (t : Str) (m n : Nat), ptok t = .valid m n ↔
    ∃ (ds ws : Str) (d : Byte),
      (t = ds ++ 0x78#8 :: d :: ws ∨ t = 0x63#8 :: (ds ++ 0x73#8 :: d :: ws)) ∧
      ds ≠ [] ∧ (∀ b ∈ ds, isDigit b) ∧ digitsValue ds = m ∧ m ≤ 11 ∧
      isDigit d ∧ digitVal d = n ∧ 1 ≤ n ∧ n ≤ 8 ∧ ∀ b ∈ ws, isWs b

/-- The tokens that `PTOK` of R162 does not accept, each with the first check that fails: for a token of an optional
leading `c` and a body, and the separator that the `c` selects. The order of the checks is the model's: of a chip a claim
may rely on VALIDATION alone (R162). The spec marks as its own: R161 (D13, D15), R162 (D13, D14). The model's choice: log
entries 3, 16. -/
def Obligations.RejectedTokensNameTheFirstFault : Prop :=
  ptok [] = .invalid .tokEmpty ∧
  ∀ (lead body : Str) (sep : Byte),
    ((lead = [0x63#8] ∧ sep = 0x73#8) ∨ (lead = [] ∧ sep = 0x78#8 ∧ body ≠ [] ∧ body.head? ≠ some 0x63#8)) →
    (∀ b, body.head? = some b → (isWs b ∨ isSign b) → ptok (lead ++ body) = .unsettled) ∧
    ((∀ b, body.head? = some b → ¬ isDigit b ∧ ¬ isWs b ∧ ¬ isSign b) →
      ptok (lead ++ body) = .invalid .tokNoInteger) ∧
    ∀ ds rest : Str, body = ds ++ rest → ds ≠ [] → (∀ b ∈ ds, isDigit b) →
      (∀ b, rest.head? = some b → ¬ isDigit b) →
      (11 < digitsValue ds → ptok (lead ++ body) = .invalid .tokMcsRange) ∧
      (digitsValue ds ≤ 11 → rest.head? ≠ some sep → ptok (lead ++ body) = .invalid .tokSeparator) ∧
      (∀ u, digitsValue ds ≤ 11 → rest = sep :: u →
        (∀ b, u.head? = some b → isDigit b → digitVal b < 1 ∨ 8 < digitVal b) →
        ptok (lead ++ body) = .invalid .tokNss) ∧
      (∀ d u, digitsValue ds ≤ 11 → rest = sep :: d :: u → isDigit d → 1 ≤ digitVal d → digitVal d ≤ 8 →
        (∃ b ∈ u, ¬ isWs b) → ptok (lead ++ body) = .invalid .tokTrailing)

/-- R172: every parameter record that RSPEC.PARSECMD builds meets the encode precondition, so that it never refuses
PRECONDITION; the record is Legacy with `-r` or HE with `-e`. The spec marks as its own: R172 (D17, D18, D19, D20, D21),
R123 (D11, D12). -/
def Obligations.CommandsMeetThePrecondition : Prop :=
  ∀ (args : List Str) (p : RsParams), parseCmd args = .ok p → p.meetsPre ∧ (p.enc = .legacy ∨ p.enc = .he)

/-- R173: a RSPEC.PARSECMD word has `txexp`, `bw`, `stbc`, `sgi`, `dcm`, `er_en` and `er_tone` 0. The spec marks as its
own: R173 (D21). -/
def Obligations.CommandWordsLeaveFieldsZero : Prop :=
  ∀ (args : List Str) (s t : State) (w : Word), exec (.rspecParsecmd args) s = .next t →
    t.response = some (.ok (.word w)) →
    field w 8 2 = 0#2 ∧ field w 16 3 = 0 ∧ w.getLsbD 20 = false ∧ w.getLsbD 23 = false ∧ w.getLsbD 19 = false ∧
    w.getLsbD 15 = false ∧ w.getLsbD 14 = false

/-- R174: `-r` takes a rate in Mbps, whole or with `.5`, and the word's rate field holds twice that rate, for rates from 0
to 63.5; a higher one is VALIDATION(CMD_RANGE). Stated at any point of the scan, for the record that the scan ends in, and
for the response to a command of that option alone. The spec marks as its own: R175 (D15), R86 (D3, D6). -/
def Obligations.RateOptionScalesByTwo : Prop :=
  ∀ ds : Str, ds ≠ [] → (∀ b ∈ ds, isDigit b) →
    (∀ (st : CmdState) (rest : List Str), st.seenR = false → st.seenE = false →
      cmdScan st (ascii "-r" :: ds :: rest) =
        (if digitsValue ds ≤ 63 then cmdScan { st with rate2 := 2 * digitsValue ds, seenR := true } rest
         else .error (.validation .cmdRange)) ∧
      cmdScan st (ascii "-r" :: (ds ++ ascii ".5") :: rest) =
        (if digitsValue ds ≤ 63 then cmdScan { st with rate2 := 2 * digitsValue ds + 1, seenR := true } rest
         else .error (.validation .cmdRange))) ∧
    (∀ st : CmdState, st.seenR = true → (cmdParams st).enc = .legacy ∧ (cmdParams st).rate = BitVec.ofNat 7 st.rate2) ∧
    (∀ s : State,
      exec (.rspecParsecmd [ascii "-r", ds]) s = .next (s.respond
        (if digitsValue ds ≤ 63 then .ok (.word (BitVec.ofNat 32 (2 * digitsValue ds)))
         else .validation .cmdRange)) ∧
      exec (.rspecParsecmd [ascii "-r", ds ++ ascii ".5"]) s = .next (s.respond
        (if digitsValue ds ≤ 63 then .ok (.word (BitVec.ofNat 32 (2 * digitsValue ds + 1)))
         else .validation .cmdRange)))

/-- R175, the `-r` arguments that are neither digits nor digits and `.5`: one of the grammar `DECIMAL`, written out here,
is REFUSED(UNSETTLED_FORM), and any other is VALIDATION(CMD_MALFORMED_ARG), at any point of the scan and as the response.
The spec marks as its own: R161 (D13, D15), R175 (D15). The model's choice: log entry 3. -/
def Obligations.DecimalFormsAreTheGrammar : Prop :=
  ∀ a : Str,
    (isDecimal a = true ↔
      ∃ ws sign mant ex ws' : Str, a = ws ++ sign ++ mant ++ ex ++ ws' ∧
        (∀ b ∈ ws, isWs b) ∧ (∀ b ∈ ws', isWs b) ∧ (sign = [] ∨ sign = ascii "+" ∨ sign = ascii "-") ∧
        (∃ ip fp : Str, (∀ b ∈ ip, isDigit b) ∧ (∀ b ∈ fp, isDigit b) ∧
          ((ip ≠ [] ∧ mant = ip) ∨ (ip ≠ [] ∧ mant = ip ++ 0x2E#8 :: fp) ∨
            (ip = [] ∧ fp ≠ [] ∧ mant = 0x2E#8 :: fp))) ∧
        (ex = [] ∨ ∃ (e : Byte) (sg ed : Str), ex = e :: (sg ++ ed) ∧ (e = 0x65#8 ∨ e = 0x45#8) ∧
          (sg = [] ∨ sg = ascii "+" ∨ sg = ascii "-") ∧ ed ≠ [] ∧ ∀ b ∈ ed, isDigit b)) ∧
    ((¬ ∃ ds : Str, ds ≠ [] ∧ (∀ b ∈ ds, isDigit b) ∧ (a = ds ∨ a = ds ++ ascii ".5")) →
      (∀ (st : CmdState) (rest : List Str), st.seenR = false → st.seenE = false →
        cmdScan st (ascii "-r" :: a :: rest) =
          .error (if isDecimal a then .refused .unsettledForm else .validation .cmdMalformedArg)) ∧
      ∀ (rest : List Str) (s : State), exec (.rspecParsecmd (ascii "-r" :: a :: rest)) s =
        .next (s.respond (if isDecimal a then .refused .unsettledForm else .validation .cmdMalformedArg)))

/-- R176: `-e` takes a token, or a bare decimal integer with trailing whitespace, whose NSS is the "unspecified" 15 and
whose range is 0 to 11; an unsettled token is refused, and anything else is VALIDATION(CMD_MALFORMED_ARG). Stated at any
point of the scan, for the record that the scan ends in, for the response to a command of that option alone, and for the
word with `-l` before or after it. The spec marks as its own: R176 (D16), R162 (D13, D14), R86 (D3, D6). The model's
choice: log entry 3. -/
def Obligations.HeOptionTakesTokensAndBareIntegers : Prop :=
  (∀ (st : CmdState) (a : Str) (rest : List Str), st.seenR = false → st.seenE = false →
    (∀ m n, ptok a = .valid m n → cmdScan st (ascii "-e" :: a :: rest) =
      cmdScan { st with mcs := m, nss := n, seenE := true } rest) ∧
    (ptok a = .unsettled → cmdScan st (ascii "-e" :: a :: rest) = .error (.refused .unsettledForm)) ∧
    (∀ ds ws : Str, a = ds ++ ws → ds ≠ [] → (∀ b ∈ ds, isDigit b) → (∀ b ∈ ws, isWs b) →
      cmdScan st (ascii "-e" :: a :: rest) =
        (if 11 < digitsValue ds then .error (.validation .cmdRange)
         else cmdScan { st with mcs := digitsValue ds, nss := 15, seenE := true } rest)) ∧
    (∀ c, ptok a = .invalid c → (¬ ∃ ds ws : Str, a = ds ++ ws ∧ ds ≠ [] ∧ (∀ b ∈ ds, isDigit b) ∧ (∀ b ∈ ws, isWs b)) →
      cmdScan st (ascii "-e" :: a :: rest) = .error (.validation .cmdMalformedArg))) ∧
  (∀ st : CmdState, st.seenR = false → (cmdParams st).enc = .he ∧ (cmdParams st).mcs = BitVec.ofNat 4 st.mcs ∧
    (cmdParams st).nss = BitVec.ofNat 4 st.nss ∧ (cmdParams st).ldpc = st.seenL) ∧
  (∀ (a : Str) (m n : Nat) (s : State),
    (ptok a = .valid m n ∨
      ((∃ ds ws : Str, a = ds ++ ws ∧ ds ≠ [] ∧ (∀ b ∈ ds, isDigit b) ∧ (∀ b ∈ ws, isWs b) ∧ digitsValue ds = m) ∧
        m ≤ 11 ∧ n = 15)) →
    exec (.rspecParsecmd [ascii "-l", ascii "-e", a]) s =
      .next (s.respond (.ok (.word (BitVec.ofNat 32 (0x03400000 + 16 * n + m))))) ∧
    exec (.rspecParsecmd [ascii "-e", a, ascii "-l"]) s =
      .next (s.respond (.ok (.word (BitVec.ofNat 32 (0x03400000 + 16 * n + m)))))) ∧
  ∀ (a : Str) (s : State),
    (∀ m n, ptok a = .valid m n → exec (.rspecParsecmd [ascii "-e", a]) s =
      .next (s.respond (.ok (.word (BitVec.ofNat 32 (0x03000000 + 16 * n + m)))))) ∧
    (ptok a = .unsettled → exec (.rspecParsecmd [ascii "-e", a]) s = .next (s.respond (.refused .unsettledForm))) ∧
    (∀ ds ws : Str, a = ds ++ ws → ds ≠ [] → (∀ b ∈ ds, isDigit b) → (∀ b ∈ ws, isWs b) →
      exec (.rspecParsecmd [ascii "-e", a]) s = .next (s.respond
        (if 11 < digitsValue ds then .validation .cmdRange
         else .ok (.word (BitVec.ofNat 32 (0x030000F0 + digitsValue ds)))))) ∧
    (∀ c, ptok a = .invalid c → (¬ ∃ ds ws : Str, a = ds ++ ws ∧ ds ≠ [] ∧ (∀ b ∈ ds, isDigit b) ∧ (∀ b ∈ ws, isWs b)) →
      exec (.rspecParsecmd [ascii "-e", a]) s = .next (s.respond (.validation .cmdMalformedArg)))

/-- R177: `-i` after `-e`, at any point of the scan, takes decimal digits of value 0 to 3, which become `he_gi`; a higher
value is VALIDATION(CMD_RANGE), digits with a sign or whitespace are REFUSED(UNSETTLED_FORM), and anything else is
VALIDATION(CMD_MALFORMED_ARG). Also the responses after a token and after a bare MCS. The spec marks as its own: R161
(D13, D15), R177 (D17), R172 (D17, D18, D19, D20, D21), R86 (D3, D6). The model's choice: log entry 3. -/
def Obligations.GiOptionSetsTheCode : Prop :=
  (∀ (st : CmdState) (rest : List Str), st.seenI = false → st.seenE = true →
    (∀ ds : Str, ds ≠ [] → (∀ b ∈ ds, isDigit b) → cmdScan st (ascii "-i" :: ds :: rest) =
      (if 3 < digitsValue ds then .error (.validation .cmdRange)
       else cmdScan { st with gi := digitsValue ds, seenI := true } rest)) ∧
    (∀ ws sign ds ws' : Str, (∀ b ∈ ws, isWs b) → (sign = [] ∨ sign = ascii "+" ∨ sign = ascii "-") → ds ≠ [] →
      (∀ b ∈ ds, isDigit b) → (∀ b ∈ ws', isWs b) → (ws ≠ [] ∨ sign ≠ [] ∨ ws' ≠ []) →
      cmdScan st (ascii "-i" :: (ws ++ sign ++ ds ++ ws') :: rest) = .error (.refused .unsettledForm)) ∧
    (∀ a : Str, (¬ ∃ ws sign ds ws' : Str, a = ws ++ sign ++ ds ++ ws' ∧ (∀ b ∈ ws, isWs b) ∧
        (sign = [] ∨ sign = ascii "+" ∨ sign = ascii "-") ∧ ds ≠ [] ∧ (∀ b ∈ ds, isDigit b) ∧ ∀ b ∈ ws', isWs b) →
      cmdScan st (ascii "-i" :: a :: rest) = .error (.validation .cmdMalformedArg))) ∧
  (∀ st : CmdState, st.seenR = false → (cmdParams st).enc = .he ∧ (cmdParams st).heGi = BitVec.ofNat 2 st.gi) ∧
  (∀ (tok ds : Str) (m n : Nat) (s : State), ptok tok = .valid m n → ds ≠ [] → (∀ b ∈ ds, isDigit b) →
    exec (.rspecParsecmd [ascii "-e", tok, ascii "-i", ds]) s = .next (s.respond
      (if 3 < digitsValue ds then .validation .cmdRange
       else .ok (.word (BitVec.ofNat 32 (0x03000000 + 1024 * digitsValue ds + 16 * n + m)))))) ∧
  (∀ (ms ws ds : Str) (s : State), ms ≠ [] → (∀ b ∈ ms, isDigit b) → digitsValue ms ≤ 11 → (∀ b ∈ ws, isWs b) →
    ds ≠ [] → (∀ b ∈ ds, isDigit b) →
    exec (.rspecParsecmd [ascii "-e", ms ++ ws, ascii "-i", ds]) s = .next (s.respond
      (if 3 < digitsValue ds then .validation .cmdRange
       else .ok (.word (BitVec.ofNat 32 (0x030000F0 + 1024 * digitsValue ds + digitsValue ms))))))

/-- R179 and R294, at any point of the scan: `-e` after `-r` and `-r` after `-e` are contradictory; `-i` before any `-e`
is CMD_GI_WITHOUT_E; a repeated option is refused; an option that is the last argument and takes one is CMD_MISSING_ARG
(R172); a word that is none of the four options and the eleven unimplemented spellings of R171 is CMD_UNKNOWN_OPTION; a
scan that ends without a rate option is CMD_NO_RATE; and `-l` sets LDPC beside either. The spec marks as its own: R179
(D18, D19, D20), R172 (D17, D18, D19, D20, D21). The model's choice: log entry 3. -/
def Obligations.OptionOrderRules : Prop :=
  (∀ (st : CmdState) (rest : List Str),
    (st.seenR = true → st.seenE = false → cmdScan st (ascii "-e" :: rest) = .error (.validation .cmdContradictory)) ∧
    (st.seenE = true → st.seenR = false → cmdScan st (ascii "-r" :: rest) = .error (.validation .cmdContradictory)) ∧
    (st.seenI = false → st.seenE = false → cmdScan st (ascii "-i" :: rest) = .error (.validation .cmdGiWithoutE)) ∧
    (st.seenR = true → cmdScan st (ascii "-r" :: rest) = .error (.refused .unsettledForm)) ∧
    (st.seenE = true → cmdScan st (ascii "-e" :: rest) = .error (.refused .unsettledForm)) ∧
    (st.seenI = true → cmdScan st (ascii "-i" :: rest) = .error (.refused .unsettledForm)) ∧
    (st.seenL = true → cmdScan st (ascii "-l" :: rest) = .error (.refused .unsettledForm)) ∧
    (st.seenL = false → cmdScan st (ascii "-l" :: rest) = cmdScan { st with seenL := true } rest) ∧
    (st.seenR = false → st.seenE = false →
      cmdScan st [ascii "-r"] = .error (.validation .cmdMissingArg) ∧
      cmdScan st [ascii "-e"] = .error (.validation .cmdMissingArg)) ∧
    (st.seenI = false → st.seenE = true → cmdScan st [ascii "-i"] = .error (.validation .cmdMissingArg)) ∧
    (∀ a, a ∉ [ascii "-r", ascii "-e", ascii "-i", ascii "-l"] →
      a ∉ [ascii "-h", ascii "-v", ascii "-c", ascii "--vht", ascii "-s", ascii "-x", ascii "--stbc", ascii "-g",
        ascii "-b", ascii "-d", ascii "-n"] →
      cmdScan st (a :: rest) = .error (.validation .cmdUnknownOption))) ∧
  (∀ (args : List Str) (st : CmdState), cmdScan CmdState.init args = .ok st → st.seenR = false → st.seenE = false →
    parseCmd args = .error (.validation .cmdNoRate)) ∧
  (∀ (args : List Str) (p : RsParams) (st : CmdState), cmdScan CmdState.init args = .ok st → parseCmd args = .ok p →
    p.ldpc = st.seenL)

/-- R178: each of the eleven unimplemented options, scanned in option position, refuses the request; as the argument of an
option it is only that option's argument, and R175 to R177 judge it: malformed for `-r` and `-i`, and an unsettled token
for `-e`, whose `PTOK` meets the sign byte. The spec marks as its own: R175 (D15), R176 (D16), R177 (D17). The model's
choice: log entry 3. -/
def Obligations.UnimplementedOptionsRefused : Prop :=
  ∀ (st : CmdState) (a : Str) (rest : List Str),
    a ∈ [ascii "-h", ascii "-v", ascii "-c", ascii "--vht", ascii "-s", ascii "-x", ascii "--stbc", ascii "-g",
      ascii "-b", ascii "-d", ascii "-n"] →
    cmdScan st (a :: rest) = .error (.refused .unimplementedOption) ∧
    (st.seenR = false → st.seenE = false →
      cmdScan st (ascii "-r" :: a :: rest) = .error (.validation .cmdMalformedArg) ∧
      cmdScan st (ascii "-e" :: a :: rest) = .error (.refused .unsettledForm)) ∧
    (st.seenI = false → st.seenE = true →
      cmdScan st (ascii "-i" :: a :: rest) = .error (.validation .cmdMalformedArg))

/-! ### The TWT unit -/

/-- R202: TWT.CTRLMAP answers OK for every octet with its decomposition, and changes nothing else; its request is op code
0x10 and the octet. The spec marks as its own: R95 (derived), R202 (D24). -/
def Obligations.CtrlmapDecomposesEveryOctet : Prop :=
  ∀ (o : Byte) (s : State), decode [0x10, o] = .ok (.twtCtrlmap o) ∧
    exec (.twtCtrlmap o) s = .next (s.respond (.ok (.ctrl
    { ndpPaging := o.getLsbD 0, respPm := o.getLsbD 1, negoCode := field o 2 2,
      nego := if field o 2 2 = 0#2 then .individual else if field o 2 2 = 1#2 then .wakeTbtt
        else if field o 2 2 = 2#2 then .broadcastInBeacon else .broadcastMembership,
      infoFrameDisabled := o.getLsbD 4, wakeDurUnit := o.getLsbD 5, reserved := field o 6 2 })))

/-- R220: TWT.TDMAP answers OK for every octet with its decomposition, the flow id kept for codes 0 and 3 and zeroed for 1
and 2, and changes nothing else; its request is op code 0x12 and the octet. The spec marks as its own: R95 (derived), R99
(D28), R201 (D25). -/
def Obligations.TdmapDecomposesEveryOctet : Prop :=
  ∀ (f : Byte) (s : State), decode [0x12, f] = .ok (.twtTdmap f) ∧
    exec (.twtTdmap f) s = .next (s.respond (.ok (.td
    { flowIdRaw := field f 0 3, reserved := field f 3 2, negoCode := field f 5 2,
      nego := if field f 5 2 = 0#2 then .individual else if field f 5 2 = 1#2 then .wakeTbtt
        else if field f 5 2 = 2#2 then .broadcastInBeacon else .broadcastMembership,
      flowId := if field f 5 2 = 0#2 ∨ field f 5 2 = 3#2 then field f 0 3 else 0, all := f.getLsbD 7 })))

/-- The TWT_CTRL and TWT_TD rows complete (R95, R100): each gives the OK decomposition of an octet with its row's
negotiation type, its free bits in their fields, and changes nothing else. The spec marks as its own: R95 (derived), R100
(D27, D28), R202 (D24). The model's choice: log entry 10. -/
def Obligations.OctetClassesComplete : Prop :=
  (∀ (hi : BitVec 4) (lo : BitVec 2) (i : Instr) (code : BitVec 2) (n : Nego) (s : State),
    (i, code, n) ∈ [(Instr.ctrlIndividual hi lo, 0, Nego.individual), (.ctrlWakeTbtt hi lo, 1, .wakeTbtt),
      (.ctrlBroadcastInBeacon hi lo, 2, .broadcastInBeacon), (.ctrlBroadcastMembership hi lo, 3, .broadcastMembership)] →
    exec i s = .next (s.respond (.ok (.ctrl
      { ndpPaging := lo.getLsbD 0, respPm := lo.getLsbD 1, negoCode := code, nego := n,
        infoFrameDisabled := hi.getLsbD 0, wakeDurUnit := hi.getLsbD 1, reserved := field hi 2 2 })))) ∧
  (∀ (hi : BitVec 1) (lo : BitVec 5) (i : Instr) (code : BitVec 2) (n : Nego) (s : State),
    (i, code, n) ∈ [(Instr.tdIndividual hi lo, 0, Nego.individual), (.tdWakeTbtt hi lo, 1, .wakeTbtt),
      (.tdBroadcastInBeacon hi lo, 2, .broadcastInBeacon), (.tdBroadcastMembership hi lo, 3, .broadcastMembership)] →
    exec i s = .next (s.respond (.ok (.td
      { flowIdRaw := field lo 0 3, reserved := field lo 3 2, negoCode := code, nego := n,
        flowId := if code = 0 ∨ code = 3 then field lo 0 3 else 0, all := hi.getLsbD 0 }))))

/-- R96: the request-type word, each field zero-extended and placed at its position. -/
def Obligations.RequestTypePlacesEveryField : Prop :=
  ∀ (cmd : Byte) (p : TwtParams) (fid : BitVec 3),
    requestType cmd p fid =
      (BitVec.ofBool p.requestor).setWidth 16 <<< 0 ||| (field cmd 0 3).setWidth 16 <<< 1 |||
      (BitVec.ofBool p.trigger).setWidth 16 <<< 4 ||| (BitVec.ofBool p.implicit).setWidth 16 <<< 5 |||
      (BitVec.ofBool p.flowType).setWidth 16 <<< 6 ||| fid.setWidth 16 <<< 7 ||| p.exponent.setWidth 16 <<< 10 |||
      (BitVec.ofBool p.protection).setWidth 16 <<< 15

/-- R64, with the layout of R98 and the flow id of R214: a valid setup's payload, byte by byte, each wider field with its
low byte at the lower index; 20 bytes. The spec marks as its own: R98 (D24, D27, derived), R201 (D25), R214 (derived). -/
def Obligations.SetupPayloadLayout : Prop :=
  ∀ (cfg : Cfg) (cmd : Byte) (p : TwtParams), cmd.toNat ≤ 7 →
    setupImage cfg cmd p = .ok
      [ cfg.catS1g, cfg.actSetup, p.dialog, cfg.eidTwt, 15, p.ctrl,
        field (requestType cmd p (if field p.ctrl 2 2 = 0#2 ∨ field p.ctrl 2 2 = 3#2 then p.flowId else 0)) 0 8,
        field (requestType cmd p (if field p.ctrl 2 2 = 0#2 ∨ field p.ctrl 2 2 = 3#2 then p.flowId else 0)) 8 8,
        field p.twt 0 8, field p.twt 8 8, field p.twt 16 8, field p.twt 24 8, field p.twt 32 8, field p.twt 40 8,
        field p.twt 48 8, field p.twt 56 8, p.minWake, field p.mantissa 0 8, field p.mantissa 8 8, p.channel ]

/-- R211: `setup_cmd` above 7 is VALIDATION(SETUP_CMD) before everything else: whatever the other operands, OutBuf's size
and the collaborators' answers are, nothing is written and no port is called. The negotiation-type check that comes next
cannot fail, and a TWT.SETUP gives no other VALIDATION. -/
def Obligations.SetupCmdCheckedFirst : Prop :=
  (∀ (cmd : Byte) (p : TwtParams) (s : State), 7 < cmd.toNat →
    exec (.twtSetup cmd p) s = .next (s.respond (.validation .setupCmd))) ∧
  (∀ (code : BitVec 2) (fid : BitVec 3), nego code.toNat fid ≠ none) ∧
  (∀ (cmd : Byte) (p : TwtParams) (s t : State) (r : Request) (c : ValidationCause), s.request = some r →
    exec (.twtSetup cmd p) s = .next t → t.request = none → t.response = some (.validation c) →
    7 < cmd.toNat ∧ c = .setupCmd ∧ t = s.respond (.validation .setupCmd))

/-- R212: the control octet is payload byte 5 as given, and the bits of it that are not the negotiation type change no
other byte. The spec marks as its own: R212 (D24). -/
def Obligations.ControlOctetCopiedVerbatim : Prop :=
  ∀ (cfg : Cfg) (cmd ctrl' : Byte) (p : TwtParams) (P P' : List Byte), setupImage cfg cmd p = .ok P →
    setupImage cfg cmd { p with ctrl := ctrl' } = .ok P' → field ctrl' 2 2 = field p.ctrl 2 2 →
    P[5]? = some p.ctrl ∧ P' = P.set 5 ctrl'

/-- R210, R213 and R223: a TWT.SETUP or TWT.TEARDOWN, or a SETUP_CMD row, that passes its checks, with both collaborators
answering yes, makes one Assoc and one Tx call, writes its payload at index 0 upward, responds OK with it, and changes
nothing else. The spec marks as its own: R62 (D41), R210 (D29), R213 (D29, D30, D31), R223 (D28, D29). The model's choice:
log entries 7, 10. -/
def Obligations.AcceptedSendsComplete : Prop :=
  ∀ (i : Instr) (P : List Byte) (s : State) (as : List Bool) (ts : List TxAnswer), Sends s (operationOf i) P →
    s.assocAnswers = true :: as → s.txAnswers = .ok :: ts →
    ∃ t, exec i s = .next t ∧ writtenFrom s t P ∧
      t = { s with request := none, call := none, response := some (.ok (.payload P)), outBuf := t.outBuf,
                   calls := s.calls ++ [.assoc, .tx P s.txCtx], assocAnswers := as, txAnswers := ts }

/-- R213 and R71: the two transport errors. With Assoc answering no, no Tx call is made; with Tx failing, one was; in both
the OutBuf bytes are draws between the old byte and the payload's, and the block does not retry. The spec marks as its
own: R71 (D30), R213 (D29, D30, D31), R263 (D29, D33). The model's choice: log entries 2, 7. -/
def Obligations.FailedSendsReportTransport : Prop :=
  ∀ (i : Instr) (P : List Byte) (s : State), Sends s (operationOf i) P →
    (∀ as, s.assocAnswers = false :: as →
      ∃ t, exec i s = .next t ∧ drawnFrom s t P ∧
        t = { s with request := none, call := none, response := some (.transport .notAssociated), outBuf := t.outBuf,
                     calls := s.calls ++ [.assoc], assocAnswers := as, draws := t.draws }) ∧
    (∀ as ts, s.assocAnswers = true :: as → s.txAnswers = .fail :: ts →
      ∃ t, exec i s = .next t ∧ drawnFrom s t P ∧
        t = { s with request := none, call := none, response := some (.transport .txFailed), outBuf := t.outBuf,
                     calls := s.calls ++ [.assoc, .tx P s.txCtx], assocAnswers := as, txAnswers := ts,
                     draws := t.draws })

/-- R298: a send whose collaborator has not answered waits with its call outstanding and no response; and it waits for as
long as there is no answer: a step changes nothing. The spec marks as its own: R298 (D38). The model's choice: log entries
7, 14. -/
def Obligations.UnansweredSendsHang : Prop :=
  (∀ (i : Instr) (P : List Byte) (s : State), Sends s (operationOf i) P →
    (s.assocAnswers = [] →
      exec i s = .next { s with call := some ⟨.assoc, P⟩, calls := s.calls ++ [.assoc] }) ∧
    (∀ as, s.assocAnswers = true :: as → s.txAnswers = [] →
      exec i s = .next { s with call := some ⟨.tx, P⟩, calls := s.calls ++ [.assoc, .tx P s.txCtx], assocAnswers := as })) ∧
  (∀ (s : State) (c : PendingCall), s.resetIn = false → s.request ≠ none → s.call = some c →
    (c.port = .assoc → s.assocAnswers = []) → (c.port = .tx → s.txAnswers = []) → step s = .next s)

/-- R43 and R298: when the answers come does not matter. A send that first waits at its Assoc call, or at its Tx call, and
is given the answers later, goes on to what it would have done with them at hand. The spec marks as its own: R298 (D38).
The model's choice: log entries 7, 14. -/
def Obligations.LateAnswersChangeNothing : Prop :=
  ∀ (i : Instr) (P : List Byte) (s waiting : State) (r : Request) (as : List Bool) (ts : List TxAnswer), s.takes r →
    Sends s i P →
    (exec i { s with assocAnswers := [] } = .next waiting →
      step { waiting with assocAnswers := as, txAnswers := ts } =
        exec i { s with assocAnswers := as, txAnswers := ts }) ∧
    (exec i { s with assocAnswers := true :: as, txAnswers := [] } = .next waiting →
      step { waiting with txAnswers := ts } = exec i { s with assocAnswers := true :: as, txAnswers := ts })

/-- R100 and R224: the teardown payload is category, action code and the flags octet exactly as given. The spec marks as
its own: R100 (D27, D28), R224 (D28). -/
def Obligations.TeardownPayloadVerbatim : Prop :=
  ∀ (cfg : Cfg) (f : Byte), teardownPayload cfg f = [cfg.catS1g, cfg.actTeardown, f]

/-- R251: TWT.PROFILE's selection for every profile and band, and its refusal of every reserved code; nothing is written
and no port is called. The spec marks as its own: R101 (D32), R251 (D32), R253 (D32). The model's choice: log entry 3. -/
def Obligations.ProfileSelectsTheTable : Prop :=
  ∀ (pr bd : Byte) (s : State),
    (3 ≤ pr.toNat ∨ 3 ≤ bd.toNat → exec (.twtProfile pr bd) s = .next (s.respond (.refused .reservedValue))) ∧
    (pr.toNat = 0 → bd.toNat < 3 →
      exec (.twtProfile pr bd) s = .next (s.respond (.ok (.selection (.teardown 0x80))))) ∧
    (pr.toNat = 1 → bd.toNat = 0 →
      exec (.twtProfile pr bd) s = .next (s.respond (.ok (.selection (.setup 8 600 10))))) ∧
    (pr.toNat = 1 → bd.toNat = 1 ∨ bd.toNat = 2 →
      exec (.twtProfile pr bd) s = .next (s.respond (.ok (.selection (.setup 2 600 10))))) ∧
    (pr.toNat = 2 → bd.toNat < 3 →
      exec (.twtProfile pr bd) s = .next (s.respond (.ok (.selection (.setup 31 50000 0)))))

/-! ### The codes of a response -/

/-- R35 and R261 to R264: a response's status byte, sub byte and result, for every response; and what a claim of a chip
may rely on (`ChipStep`): nothing where a request is REFUSED, code 0xFF, also when reset cuts it (R264); the status alone
where a token is VALIDATION (R162); after TRANSPORT all but the payload's bytes of OutBuf, each the old one or the
payload's (R71); at reset all but those bytes and the calls that R291 leaves open, or with no such request in flight the
whole of R290; the model's own next state on every other step; and nothing where the model stops. What the draws may be is
stated both ways: a chip may be in such a state and in no other. The spec marks as its own: R35 (D1), R71 (D30), R162
(D13, D14), R261 (D33), R262 (D14, D33), R263 (D29, D33), R264 (D11, D41), R290 (D36), R291 (D36). The model's choice: log
entries 2, 3, 6, 16. -/
def Obligations.ResponseCodesAreTheTables : Prop :=
  (∀ r, ((Response.ok r).status.code, (Response.ok r).sub, (Response.ok r).result) = (0x00#8, 0x00#8, r)) ∧
  (∀ c, ∃ b, (c, b) ∈ ([(.setupCmd, 0x01), (.negoType, 0x02), (.tokEmpty, 0x10), (.tokNoInteger, 0x11),
      (.tokMcsRange, 0x12), (.tokSeparator, 0x13), (.tokNss, 0x14), (.tokTrailing, 0x15), (.cmdNoRate, 0x20),
      (.cmdContradictory, 0x21), (.cmdMissingArg, 0x22), (.cmdMalformedArg, 0x23), (.cmdRange, 0x24),
      (.cmdGiWithoutE, 0x25), (.cmdUnknownOption, 0x26)] : List (ValidationCause × Byte)) ∧
    ((Response.validation c).status.code, (Response.validation c).sub, (Response.validation c).result) =
      (0x01#8, b, Result.none)) ∧
  (∀ x, ((Response.unsupportedEncoding x).status.code, (Response.unsupportedEncoding x).sub,
    (Response.unsupportedEncoding x).result) = (0x02#8, 0x00#8, Result.string x)) ∧
  (∀ c, ∃ b, (c, b) ∈ ([(.notAssociated, 0x01), (.txFailed, 0x02)] : List (TransportCause × Byte)) ∧
    ((Response.transport c).status.code, (Response.transport c).sub, (Response.transport c).result) =
      (0x03#8, b, Result.none)) ∧
  (Response.illegalOp.status.code, Response.illegalOp.sub, Response.illegalOp.result) = (0x04#8, 0x00#8, Result.none) ∧
  (Response.malformed.status.code, Response.malformed.sub, Response.malformed.result) = (0x05#8, 0x00#8, Result.none) ∧
  (∀ c, ∃ b, (c, b) ∈ ([(.precondition, 0x01), (.unimplementedOption, 0x02), (.unsettledForm, 0x03),
      (.reservedValue, 0x04), (.buffer, 0x05)] : List (RefusedCause × Byte)) ∧
    ((Response.refused c).status.code, (Response.refused c).sub, (Response.refused c).result) =
      (0xFF#8, b, Result.none)) ∧
  (∀ (s t u : State) (x : Response), s.resetIn = false → s.request ≠ none → step s = .next t → t.request = none →
    t.response = some x →
    if x.status.code = 0xFF#8 then ChipStep s u
    else if x.status.code = 0x01#8 ∧ 0x10 ≤ x.sub.toNat ∧ x.sub.toNat ≤ 0x15 then
      (ChipStep s u ↔ ∃ c : ValidationCause, 0x10 ≤ c.code.toNat ∧ c.code.toNat ≤ 0x15 ∧ u = s.respond (.validation c))
    else if x.status.code = 0x03#8 then
      ∃ P, s.inFlightImage = some (P, true) ∧
        (ChipStep s u ↔ (s.outBuf.wf → u.outBuf.wf) ∧ drawnFrom s u P ∧
          u = { t with outBuf := u.outBuf, draws := u.draws })
    else (ChipStep s u ↔ u = t)) ∧
  (∀ s t u : State, s.resetIn = false → step s = .next t → (s.request = none ∨ t.request ≠ none) →
    (ChipStep s u ↔ u = t)) ∧
  (∀ s u : State, s.resetIn = true →
    (s.Refuses → ChipStep s u) ∧
    (¬ s.Refuses → s.inFlightImage = none →
      (ChipStep s u ↔ u = { s with request := none, response := none, call := none, resetIn := false })) ∧
    (¬ s.Refuses → ∀ P isFrame, s.inFlightImage = some (P, isFrame) →
      (ChipStep s u ↔ (s.outBuf.wf → u.outBuf.wf) ∧ drawnFrom s u P ∧
        u.calls ∈ (match isFrame, s.call.map (·.port) with
          | false, _ => [s.calls]
          | true, none => [s.calls, s.calls ++ [.assoc], s.calls ++ [.assoc, .tx P s.txCtx]]
          | true, some .assoc => [s.calls, s.calls ++ [.tx P s.txCtx]]
          | true, some .tx => [s.calls, s.calls.dropLast] : List (List PortCall)) ∧
        u = { s with request := none, response := none, call := none, resetIn := false,
                     outBuf := u.outBuf, calls := u.calls, draws := u.draws }))) ∧
  (∀ s u : State, (∀ t, step s ≠ .next t) → ChipStep s u)
end

