-- ==== Sys2Proof/Laws/Bits.lean ====
section
/-! SUPPORT. Bits of the fields that Decode and Operands read and place: with these, a goal about a packed word is a goal
about one bit at a time. -/

namespace Sys2Proof

theorem getLsbD_field {w : Nat} (b : BitVec w) (lo n i : Nat) :
    (field b lo n).getLsbD i = (decide (i < n) && b.getLsbD (lo + i)) := BitVec.getLsbD_extractLsb' ..

theorem getLsbD_place {n w : Nat} (v : BitVec n) (lo i : Nat) :
    (place w v lo).getLsbD i = (decide (i < w) && (decide (lo ≤ i) && v.getLsbD (i - lo))) := by
  unfold place
  rw [BitVec.getLsbD_shiftLeft]
  by_cases h1 : i < w <;> by_cases h2 : i < lo <;> by_cases h3 : i - lo < w <;>
    simp [h1, h2, h3, BitVec.getLsbD_setWidth, not_le] <;> omega

theorem getLsbD_flag (b : Bool) (i : Nat) : (flag b).getLsbD i = (decide (i = 0) && b) := by
  unfold flag; cases b <;> simp

theorem getElem_field {w : Nat} (b : BitVec w) (lo n i : Nat) (h : i < n) :
    (field b lo n)[i] = b.getLsbD (lo + i) := by
  rw [← BitVec.getLsbD_eq_getElem, getLsbD_field]; simp [h]

theorem getElem_place {n w : Nat} (v : BitVec n) (lo i : Nat) (h : i < w) :
    (place w v lo)[i] = (decide (lo ≤ i) && v.getLsbD (i - lo)) := by
  rw [← BitVec.getLsbD_eq_getElem, getLsbD_place]; simp [h]

theorem getElem_flag (b : Bool) (i : Nat) (h : i < 1) : (flag b)[i] = b := by
  rw [← BitVec.getLsbD_eq_getElem, getLsbD_flag]; simp; omega

/-- The whole of a value is its own field. -/
@[simp] theorem field_self {n : Nat} (v : BitVec n) : field v 0 n = v := BitVec.extractLsb'_eq_self

end Sys2Proof
end

