-- ==== Sys2Proof/Laws/Decode.lean ====
section
/-! SUPPORT. The pieces that decoding and encoding are made of: bytes put together and taken apart, the argument list of
R83, the classes' operands, and the operation of a class row. -/

namespace Sys2Proof

/-- A length that fits its byte is read back. -/
theorem toNat_lengthByte {n : Nat} (h : n ≤ 255) : (BitVec.ofNat 8 n).toNat = n := by simp; omega

theorem ofLe16_fields (v : BitVec 16) : ofLe16 (field v 0 8) (field v 8 8) = v := by
  apply BitVec.eq_of_getElem_eq
  intro i hi
  unfold ofLe16
  interval_cases i <;> simp [getElem_field, getElem_place, BitVec.getElem_or]

theorem ofLe32_fields (v : Word) : ofLe32 (field v 0 8) (field v 8 8) (field v 16 8) (field v 24 8) = v := by
  apply BitVec.eq_of_getElem_eq
  intro i hi
  unfold ofLe32
  interval_cases i <;> simp [getElem_field, getElem_place, BitVec.getElem_or]

theorem ofLe64_fields (v : BitVec 64) :
    ofLe64 (field v 0 8) (field v 8 8) (field v 16 8) (field v 24 8) (field v 32 8) (field v 40 8) (field v 48 8)
      (field v 56 8) = v := by
  apply BitVec.eq_of_getElem_eq
  intro i hi
  unfold ofLe64
  interval_cases i <;> simp [getElem_field, getElem_place, BitVec.getElem_or]

/-- Entries written out are split into the same arguments (R83). -/
theorem splitArgs_flatMap (args : List Str) (h : ∀ a ∈ args, a.length ≤ 255) :
    splitArgs args.length (args.flatMap encodeArg) = some args := by
  induction args with
  | nil => rfl
  | cons a as ih =>
    simp only [List.flatMap_cons, encodeArg, List.cons_append, List.length_cons, splitArgs]
    rw [toNat_lengthByte (h a (by simp)), if_pos (by simp)]
    simp [ih fun b hb => h b (by simp [hb])]

/-- Entries that are split were written out from the arguments they are split into (R83). -/
theorem splitArgs_eq_some {n : Nat} {r : List Byte} {args : List Str} (h : splitArgs n r = some args) :
    args.length = n ∧ (∀ a ∈ args, a.length ≤ 255) ∧ r = args.flatMap encodeArg := by
  induction n generalizing r args with
  | zero => cases r <;> simp [splitArgs] at h; subst h; simp
  | succ n ih =>
    cases r with
    | nil => simp [splitArgs] at h
    | cons l r =>
      simp only [splitArgs] at h
      split at h
      · rename_i hl
        simp only [Option.map_eq_some_iff] at h
        obtain ⟨as, h1, rfl⟩ := h
        obtain ⟨i1, i2, i3⟩ := ih h1
        refine ⟨by simp [i1], ?_, ?_⟩
        · intro a ha
          rcases List.mem_cons.mp ha with rfl | ha
          · have := l.isLt; simp; omega
          · exact i2 a ha
        · simp only [List.flatMap_cons, encodeArg, List.length_take, List.cons_append]
          rw [← i3]
          simp [Nat.min_eq_left hl]
      · cases h

/-! ### Class rows -/

@[simp] theorem operationOf_operationOf (i : Instr) : operationOf (operationOf i) = operationOf i := by
  cases i <;> rfl

/-- A class row is encoded as its operation. -/
theorem encode_operationOf (i : Instr) : encode (operationOf i) = encode i := by
  cases i <;> rfl

/-- What the decoder gives is one of the nine operations. -/
theorem operationOf_of_decode {l : List Byte} {i : Instr} (h : decode l = .ok i) : operationOf i = i := by
  unfold decode decodeOp at h
  split at h
  · cases h
  · split at h <;>
      first
        | cases h
        | (simp only [decodeEncode, decodeDecode, decodeParsetok, decodeParsecmd, decodeOctet, decodeSetup,
             decodeProfile] at h
           repeat' split at h) <;> cases h <;> rfl

theorem wordOf_fields (hi : BitVec 6) (c : BitVec 2) (lo : BitVec 24) :
    field (wordOf hi c lo) 26 6 = hi ∧ field (wordOf hi c lo) 24 2 = c ∧ field (wordOf hi c lo) 0 24 = lo := by
  refine ⟨?_, ?_, ?_⟩ <;> unfold wordOf <;> apply BitVec.eq_of_getElem_eq <;> intro i hi <;> interval_cases i <;>
    simp [getElem_field, getElem_place, BitVec.getElem_or]

theorem ctrlOctetOf_fields (hi : BitVec 4) (c lo : BitVec 2) :
    field (ctrlOctetOf hi c lo) 4 4 = hi ∧ field (ctrlOctetOf hi c lo) 2 2 = c ∧ field (ctrlOctetOf hi c lo) 0 2 = lo := by
  refine ⟨?_, ?_, ?_⟩ <;> unfold ctrlOctetOf <;> apply BitVec.eq_of_getElem_eq <;> intro i hi <;> interval_cases i <;>
    simp [getElem_field, getElem_place, BitVec.getElem_or]

theorem tdOctetOf_fields (hi : BitVec 1) (c : BitVec 2) (lo : BitVec 5) :
    field (tdOctetOf hi c lo) 7 1 = hi ∧ field (tdOctetOf hi c lo) 5 2 = c ∧ field (tdOctetOf hi c lo) 0 5 = lo := by
  refine ⟨?_, ?_, ?_⟩ <;> unfold tdOctetOf <;> apply BitVec.eq_of_getElem_eq <;> intro i hi <;> interval_cases i <;>
    simp [getElem_field, getElem_place, BitVec.getElem_or]

/-- A word with its class's code is AUTO only where everything but `txexp` is zero (R92). -/
theorem eq_zero_of_isAuto_wordOf {hi : BitVec 6} {c : BitVec 2} {lo : BitVec 24} (h : isAuto (wordOf hi c lo) = true) :
    c = 0#2 ∧ hi = 0#6 ∧ lo &&& 0xFFFCFF#24 = 0#24 := by
  have key (i : Nat) (_ : i < 32) : ((wordOf hi c lo).getLsbD i && (0xFFFFFCFF#32).getLsbD i) = false := by
    rw [← BitVec.getLsbD_and, show wordOf hi c lo &&& 0xFFFFFCFF#32 = 0#32 by simpa [isAuto] using h]
    simp
  refine ⟨?_, ?_, ?_⟩
  · apply BitVec.eq_of_getLsbD_eq
    intro i hi'
    have := key (24 + i) (by omega)
    interval_cases i <;> simpa [wordOf, getElem_place, getLsbD_place] using this
  · apply BitVec.eq_of_getLsbD_eq
    intro i hi'
    have := key (26 + i) (by omega)
    interval_cases i <;> simpa [wordOf, getElem_place, getLsbD_place] using this
  · apply BitVec.eq_of_getLsbD_eq
    intro i hi'
    have := key i (by omega)
    interval_cases i <;> simpa [wordOf, getElem_place, getLsbD_place] using this

end Sys2Proof
end

