-- ==== Sys2Proof/Laws/Memory.lean ====
section
/-! SUPPORT. OutBuf's laws: a read after a write, bytes written and drawn in a row, and the canonical form kept by every
memory operation. -/

namespace Sys2Proof.Machine.Memory

@[simp] theorem read_nil (a : Nat) : read [] a = none := rfl

theorem read_cons (c : Host.Cell) (m : Memory) (a : Nat) :
    read (c :: m) a = if c.1 = a then some c.2 else read m a := by
  by_cases h : c.1 = a <;> simp [read, h]

/-- Below every listed index there is no listed byte. -/
theorem read_eq_none_of_lt {m : Memory} {a : Nat} (h : ∀ c ∈ m, a < c.1) : read m a = none := by
  induction m with
  | nil => rfl
  | cons c m ih =>
    have hc := h c (by simp)
    rw [read_cons, if_neg (by omega), ih fun d hd => h d (by simp [hd])]

/-- A read after a write: the written index gives the byte, and every other index what it gave before. -/
theorem read_write (m : Memory) (a : Nat) (v : Byte) (b : Nat) :
    read (m.write a v) b = if b = a then some v else read m b := by
  induction m with
  | nil => simp [write, read_cons, eq_comm]
  | cons c m ih =>
    unfold write
    split
    · rw [read_cons]; simp only [eq_comm (a := a)]
    · split
      · rename_i h; subst h; simp only [read_cons, eq_comm (a := c.1)]; split <;> rfl
      · rw [read_cons, ih, read_cons]
        by_cases h1 : c.1 = b
        · rw [if_pos h1, if_pos h1, if_neg (by omega)]
        · rw [if_neg h1, if_neg h1]

theorem read_writeBytes (m : Memory) (P : List Byte) (a b : Nat) :
    read (m.writeBytes a P) b = if a ≤ b ∧ b < a + P.length then P[b - a]? else read m b := by
  induction P generalizing m a with
  | nil => simp [writeBytes]
  | cons v vs ih =>
    rw [writeBytes, ih, read_write]
    by_cases h : b = a
    · subst h; rw [if_neg (by omega), if_pos rfl, if_pos (by simp)]; simp
    · by_cases h2 : a + 1 ≤ b ∧ b < a + 1 + vs.length
      · rw [if_pos h2, if_pos (by simp; omega)]
        rw [show b - a = (b - (a + 1)) + 1 by omega, List.getElem?_cons_succ]
      · rw [if_neg h2, if_neg h, if_neg (by simp; omega)]

/-- OutBuf after writing `P` at index 0 upward: `P` at its indices and every other byte as it was (R60, R62). -/
theorem read_writeBytes_zero (m : Memory) (P : List Byte) (a : Nat) :
    read (m.writeBytes 0 P) a = if a < P.length then P[a]? else read m a := by
  simp [read_writeBytes]

/-- A drawn byte is the old byte or the new one (R71). -/
theorem read_drawBytes (m : Memory) (k a : Nat) (P : List Byte) (b : Nat) :
    read (m.drawBytes k a P) b = read m b ∨
      ∃ v, a ≤ b ∧ P[b - a]? = some v ∧ read (m.drawBytes k a P) b = some v := by
  induction P generalizing m k a with
  | nil => exact .inl rfl
  | cons v vs ih =>
    rw [drawBytes]
    rcases ih (if Config.drawBit k then m.write a v else m) (k + 1) (a + 1) with h | ⟨u, h1, h2, h3⟩
    · rw [h]
      split
      · rw [read_write]
        by_cases hb : b = a
        · subst hb; right; exact ⟨v, le_refl _, by simp, by simp⟩
        · left; simp [hb]
      · exact .inl rfl
    · right
      refine ⟨u, by omega, ?_, h3⟩
      rw [show b - a = (b - (a + 1)) + 1 by omega, List.getElem?_cons_succ, h2]

theorem lt_of_mem_write {m : Memory} {a b : Nat} {v : Byte} (hb : b < a) (h : ∀ c ∈ m, b < c.1) :
    ∀ c ∈ m.write a v, b < c.1 := by
  induction m with
  | nil => simp [write, hb]
  | cons c m ih =>
    unfold write
    split
    · simpa [hb] using h
    · split
      · simp only [List.mem_cons, forall_eq_or_imp] at h ⊢
        exact ⟨hb, h.2⟩
      · simp only [List.mem_cons, forall_eq_or_imp] at h ⊢
        exact ⟨h.1, ih h.2⟩

/-- A write keeps the canonical form. -/
theorem wf_write {m : Memory} (h : m.wf) (a : Nat) (v : Byte) : (m.write a v).wf := by
  induction m with
  | nil => simp [write, wf]
  | cons c m ih =>
    have hc := List.pairwise_cons.mp h
    unfold write
    split
    · rename_i hlt
      refine List.pairwise_cons.mpr ⟨?_, h⟩
      simp only [List.mem_cons, forall_eq_or_imp]
      exact ⟨hlt, fun d hd => lt_trans hlt (hc.1 d hd)⟩
    · split
      · rename_i heq
        exact List.pairwise_cons.mpr ⟨fun d hd => heq ▸ hc.1 d hd, hc.2⟩
      · exact List.pairwise_cons.mpr ⟨lt_of_mem_write (by omega) hc.1, ih hc.2⟩

theorem wf_writeBytes {m : Memory} (h : m.wf) (a : Nat) (P : List Byte) : (m.writeBytes a P).wf := by
  induction P generalizing m a with
  | nil => exact h
  | cons v vs ih => exact ih (wf_write h a v) (a + 1)

theorem wf_drawBytes {m : Memory} (h : m.wf) (k a : Nat) (P : List Byte) : (m.drawBytes k a P).wf := by
  induction P generalizing m k a with
  | nil => exact h
  | cons v vs ih =>
    rw [drawBytes]
    apply ih
    split
    · exact wf_write h a v
    · exact h

end Sys2Proof.Machine.Memory
end

