-- ==== Sys2Proof/Laws/State.lean ====
section
/-! SUPPORT. What each update of State does to each field: one lemma per field per update, true by rfl, so that no proof
unfolds a record update. -/

namespace Sys2Proof.Machine

@[simp] theorem State.respond_cfg (s : State) (r : Response) : (s.respond r).cfg = s.cfg := rfl
@[simp] theorem State.respond_request (s : State) (r : Response) : (s.respond r).request = none := rfl
@[simp] theorem State.respond_response (s : State) (r : Response) : (s.respond r).response = some r := rfl
@[simp] theorem State.respond_outBuf (s : State) (r : Response) : (s.respond r).outBuf = s.outBuf := rfl
@[simp] theorem State.respond_call (s : State) (r : Response) : (s.respond r).call = none := rfl
@[simp] theorem State.respond_calls (s : State) (r : Response) : (s.respond r).calls = s.calls := rfl
@[simp] theorem State.respond_assocAnswers (s : State) (r : Response) : (s.respond r).assocAnswers = s.assocAnswers := rfl
@[simp] theorem State.respond_txAnswers (s : State) (r : Response) : (s.respond r).txAnswers = s.txAnswers := rfl
@[simp] theorem State.respond_draws (s : State) (r : Response) : (s.respond r).draws = s.draws := rfl
@[simp] theorem State.respond_resetIn (s : State) (r : Response) : (s.respond r).resetIn = s.resetIn := rfl

@[simp] theorem State.drawOutBuf_cfg (s : State) (P : List Byte) : (s.drawOutBuf P).cfg = s.cfg := rfl
@[simp] theorem State.drawOutBuf_request (s : State) (P : List Byte) : (s.drawOutBuf P).request = s.request := rfl
@[simp] theorem State.drawOutBuf_response (s : State) (P : List Byte) : (s.drawOutBuf P).response = s.response := rfl
@[simp] theorem State.drawOutBuf_outBuf (s : State) (P : List Byte) : (s.drawOutBuf P).outBuf = s.outBuf.drawBytes s.draws 0 P := rfl
@[simp] theorem State.drawOutBuf_call (s : State) (P : List Byte) : (s.drawOutBuf P).call = s.call := rfl
@[simp] theorem State.drawOutBuf_calls (s : State) (P : List Byte) : (s.drawOutBuf P).calls = s.calls := rfl
@[simp] theorem State.drawOutBuf_assocAnswers (s : State) (P : List Byte) : (s.drawOutBuf P).assocAnswers = s.assocAnswers := rfl
@[simp] theorem State.drawOutBuf_txAnswers (s : State) (P : List Byte) : (s.drawOutBuf P).txAnswers = s.txAnswers := rfl
@[simp] theorem State.drawOutBuf_draws (s : State) (P : List Byte) : (s.drawOutBuf P).draws = s.draws + P.length := rfl
@[simp] theorem State.drawOutBuf_resetIn (s : State) (P : List Byte) : (s.drawOutBuf P).resetIn = s.resetIn := rfl

@[simp] theorem State.callTx_cfg (s : State) (P : List Byte) : (s.callTx P).cfg = s.cfg := rfl
@[simp] theorem State.callTx_request (s : State) (P : List Byte) : (s.callTx P).request = s.request := rfl
@[simp] theorem State.callTx_response (s : State) (P : List Byte) : (s.callTx P).response = s.response := rfl
@[simp] theorem State.callTx_outBuf (s : State) (P : List Byte) : (s.callTx P).outBuf = s.outBuf := rfl
@[simp] theorem State.callTx_call (s : State) (P : List Byte) : (s.callTx P).call = some ⟨.tx, P⟩ := rfl
@[simp] theorem State.callTx_calls (s : State) (P : List Byte) : (s.callTx P).calls = s.calls ++ [.tx P s.txCtx] := rfl
@[simp] theorem State.callTx_assocAnswers (s : State) (P : List Byte) : (s.callTx P).assocAnswers = s.assocAnswers := rfl
@[simp] theorem State.callTx_txAnswers (s : State) (P : List Byte) : (s.callTx P).txAnswers = s.txAnswers := rfl
@[simp] theorem State.callTx_draws (s : State) (P : List Byte) : (s.callTx P).draws = s.draws := rfl
@[simp] theorem State.callTx_resetIn (s : State) (P : List Byte) : (s.callTx P).resetIn = s.resetIn := rfl

@[simp] theorem State.callAssoc_cfg (s : State) (P : List Byte) : (s.callAssoc P).cfg = s.cfg := rfl
@[simp] theorem State.callAssoc_request (s : State) (P : List Byte) : (s.callAssoc P).request = s.request := rfl
@[simp] theorem State.callAssoc_response (s : State) (P : List Byte) : (s.callAssoc P).response = s.response := rfl
@[simp] theorem State.callAssoc_outBuf (s : State) (P : List Byte) : (s.callAssoc P).outBuf = s.outBuf := rfl
@[simp] theorem State.callAssoc_call (s : State) (P : List Byte) : (s.callAssoc P).call = some ⟨.assoc, P⟩ := rfl
@[simp] theorem State.callAssoc_calls (s : State) (P : List Byte) : (s.callAssoc P).calls = s.calls ++ [.assoc] := rfl
@[simp] theorem State.callAssoc_assocAnswers (s : State) (P : List Byte) : (s.callAssoc P).assocAnswers = s.assocAnswers := rfl
@[simp] theorem State.callAssoc_txAnswers (s : State) (P : List Byte) : (s.callAssoc P).txAnswers = s.txAnswers := rfl
@[simp] theorem State.callAssoc_draws (s : State) (P : List Byte) : (s.callAssoc P).draws = s.draws := rfl
@[simp] theorem State.callAssoc_resetIn (s : State) (P : List Byte) : (s.callAssoc P).resetIn = s.resetIn := rfl

@[simp] theorem State.present_cfg (s : State) (r : Request) : (s.present r).cfg = s.cfg := rfl
@[simp] theorem State.present_request (s : State) (r : Request) : (s.present r).request = some r := rfl
@[simp] theorem State.present_response (s : State) (r : Request) : (s.present r).response = none := rfl
@[simp] theorem State.present_outBuf (s : State) (r : Request) : (s.present r).outBuf = s.outBuf := rfl
@[simp] theorem State.present_call (s : State) (r : Request) : (s.present r).call = none := rfl
@[simp] theorem State.present_calls (s : State) (r : Request) : (s.present r).calls = s.calls := rfl
@[simp] theorem State.present_assocAnswers (s : State) (r : Request) : (s.present r).assocAnswers = s.assocAnswers := rfl
@[simp] theorem State.present_txAnswers (s : State) (r : Request) : (s.present r).txAnswers = s.txAnswers := rfl
@[simp] theorem State.present_draws (s : State) (r : Request) : (s.present r).draws = s.draws := rfl
@[simp] theorem State.present_resetIn (s : State) (r : Request) : (s.present r).resetIn = s.resetIn := rfl

@[simp] theorem State.applyReset_cfg (s : State) : (s.applyReset).cfg = s.cutShort.cfg := rfl
@[simp] theorem State.applyReset_request (s : State) : (s.applyReset).request = none := rfl
@[simp] theorem State.applyReset_response (s : State) : (s.applyReset).response = none := rfl
@[simp] theorem State.applyReset_outBuf (s : State) : (s.applyReset).outBuf = s.cutShort.outBuf := rfl
@[simp] theorem State.applyReset_call (s : State) : (s.applyReset).call = none := rfl
@[simp] theorem State.applyReset_calls (s : State) : (s.applyReset).calls = s.cutShort.calls := rfl
@[simp] theorem State.applyReset_assocAnswers (s : State) : (s.applyReset).assocAnswers = s.cutShort.assocAnswers := rfl
@[simp] theorem State.applyReset_txAnswers (s : State) : (s.applyReset).txAnswers = s.cutShort.txAnswers := rfl
@[simp] theorem State.applyReset_draws (s : State) : (s.applyReset).draws = s.cutShort.draws := rfl
@[simp] theorem State.applyReset_resetIn (s : State) : (s.applyReset).resetIn = false := rfl

@[simp] theorem State.withFetchWord_cfg (s : State) (nbits w : Nat) : (s.withFetchWord nbits w).cfg = s.cfg := rfl
@[simp] theorem State.withFetchWord_request (s : State) (nbits w : Nat) : (s.withFetchWord nbits w).request = some ⟨tableDescriptor nbits w, 32, []⟩ := rfl
@[simp] theorem State.withFetchWord_response (s : State) (nbits w : Nat) : (s.withFetchWord nbits w).response = s.response := rfl
@[simp] theorem State.withFetchWord_outBuf (s : State) (nbits w : Nat) : (s.withFetchWord nbits w).outBuf = s.outBuf := rfl
@[simp] theorem State.withFetchWord_call (s : State) (nbits w : Nat) : (s.withFetchWord nbits w).call = none := rfl
@[simp] theorem State.withFetchWord_calls (s : State) (nbits w : Nat) : (s.withFetchWord nbits w).calls = s.calls := rfl
@[simp] theorem State.withFetchWord_assocAnswers (s : State) (nbits w : Nat) : (s.withFetchWord nbits w).assocAnswers = s.assocAnswers := rfl
@[simp] theorem State.withFetchWord_txAnswers (s : State) (nbits w : Nat) : (s.withFetchWord nbits w).txAnswers = s.txAnswers := rfl
@[simp] theorem State.withFetchWord_draws (s : State) (nbits w : Nat) : (s.withFetchWord nbits w).draws = s.draws := rfl
@[simp] theorem State.withFetchWord_resetIn (s : State) (nbits w : Nat) : (s.withFetchWord nbits w).resetIn = false := rfl

@[simp] theorem State.callAssoc_outCap (s : State) (P : List Byte) : (s.callAssoc P).outCap = s.outCap := rfl
@[simp] theorem State.callTx_outCap (s : State) (P : List Byte) : (s.callTx P).outCap = s.outCap := rfl
@[simp] theorem State.callAssoc_txCtx (s : State) (P : List Byte) : (s.callAssoc P).txCtx = s.txCtx := rfl
@[simp] theorem State.callTx_txCtx (s : State) (P : List Byte) : (s.callTx P).txCtx = s.txCtx := rfl

/-- The capacity of the request on the port. -/
theorem State.outCap_of_request {s : State} {r : Request} (h : s.request = some r) : s.outCap = r.outCap := by
  simp [State.outCap, h]

/-- The transmit context of the request on the port. -/
theorem State.txCtx_of_request {s : State} {r : Request} (h : s.request = some r) : s.txCtx = r.txCtx := by
  simp [State.txCtx, h]

end Sys2Proof.Machine
end

