-- ==== Sys2Proof/Laws/Ops.lean ====
section
/-! SUPPORT. What the shared operations can do, said once: giving a response, committing a payload, the gated send and its
two ends, and reset. -/

namespace Sys2Proof.Machine

/-- `answer` always answers a next state, the response and nothing else. -/
@[simp] theorem State.answer_eq (s : State) (r : Response) : s.answer r = .next (s.respond r) := rfl

/-- With room for the payload, `commit` writes it and responds OK. -/
theorem State.commit_of_room {s : State} {P : List Byte} (r : Result) (h : P.length ≤ s.outCap) :
    s.commit P r = .next ({ s with outBuf := s.outBuf.writeBytes 0 P }.respond (.ok r)) := if_pos h

/-- With room for the payload, a transport error draws OutBuf and responds. -/
theorem State.transportError_of_room {s : State} {P : List Byte} (c : TransportCause) (h : P.length ≤ s.outCap) :
    s.transportError P c = .next ((s.drawOutBuf P).respond (.transport c)) := if_pos h

/-- The OutBuf that `commit` leaves. -/
theorem writtenFrom_of_outBuf {s t : State} {P : List Byte} (h : t.outBuf = s.outBuf.writeBytes 0 P) :
    writtenFrom s t P := fun a => by rw [h, Memory.read_writeBytes_zero]

/-- The OutBuf that the draws leave. -/
theorem drawnFrom_of_outBuf {s t : State} {P : List Byte} {k : Nat} (h : t.outBuf = s.outBuf.drawBytes k 0 P) :
    drawnFrom s t P := fun a => by
  rcases Memory.read_drawBytes s.outBuf k 0 P a with h' | ⟨v, -, h2, h3⟩
  · exact .inl (by rw [h, h'])
  · exact .inr ⟨v, by simpa using h2, by rw [h, h3]⟩

/-- Everything an outstanding Tx call can come to. -/
theorem State.awaitTx_cases {s t : State} {P : List Byte} (h : s.awaitTx P = .next t) :
    (s.txAnswers = [] ∧ t = s) ∨
    (∃ as, s.txAnswers = .ok :: as ∧ P.length ≤ s.outCap ∧
      t = State.respond { s with txAnswers := as, outBuf := s.outBuf.writeBytes 0 P } (.ok (.payload P))) ∨
    (∃ as, s.txAnswers = .fail :: as ∧ P.length ≤ s.outCap ∧
      t = State.respond (State.drawOutBuf { s with txAnswers := as } P) (.transport .txFailed)) := by
  unfold State.awaitTx at h
  split at h
  · exact .inl ⟨‹_›, by cases h; rfl⟩
  · unfold State.commit at h
    split at h
    · cases h; exact .inr (.inl ⟨_, ‹_›, ‹_›, rfl⟩)
    · cases h
  · unfold State.transportError at h
    split at h
    · cases h; exact .inr (.inr ⟨_, ‹_›, ‹_›, rfl⟩)
    · cases h

/-- Everything an outstanding Assoc call can come to. -/
theorem State.awaitAssoc_cases {s t : State} {P : List Byte} (h : s.awaitAssoc P = .next t) :
    (s.assocAnswers = [] ∧ t = s) ∨
    (∃ as, s.assocAnswers = false :: as ∧ P.length ≤ s.outCap ∧
      t = State.respond (State.drawOutBuf { s with assocAnswers := as } P) (.transport .notAssociated)) ∨
    (∃ as, s.assocAnswers = true :: as ∧ (State.callTx { s with assocAnswers := as } P).awaitTx P = .next t) := by
  unfold State.awaitAssoc at h
  split at h
  · exact .inl ⟨‹_›, by cases h; rfl⟩
  · unfold State.transportError at h
    split at h
    · cases h; exact .inr (.inl ⟨_, ‹_›, ‹_›, rfl⟩)
    · cases h
  · exact .inr (.inr ⟨_, ‹_›, h⟩)

/-- With room for the payload, an outstanding Tx call never faults and is never refused. -/
theorem State.awaitTx_next {s : State} {P : List Byte} (h : P.length ≤ s.outCap) : ∃ t, s.awaitTx P = .next t := by
  unfold State.awaitTx
  split
  · exact ⟨_, rfl⟩
  · exact ⟨_, State.commit_of_room _ h⟩
  · exact ⟨_, State.transportError_of_room _ h⟩

/-- With room for the payload, an outstanding Assoc call never faults and is never refused. -/
theorem State.awaitAssoc_next {s : State} {P : List Byte} (h : P.length ≤ s.outCap) :
    ∃ t, s.awaitAssoc P = .next t := by
  unfold State.awaitAssoc
  split
  · exact ⟨_, rfl⟩
  · exact ⟨_, State.transportError_of_room _ h⟩
  · exact State.awaitTx_next h

/-! ### The payloads -/

@[simp] theorem setupPayload_length (cfg : Cfg) (cmd : Byte) (p : TwtParams) (fid : BitVec 3) :
    (setupPayload cfg cmd p fid).length = 20 := rfl

@[simp] theorem teardownPayload_length (cfg : Cfg) (f : Byte) : (teardownPayload cfg f).length = 3 := rfl

@[simp] theorem wire_length (cfg : Cfg) (w : Word) : (wire cfg w).length = 4 := by
  unfold wire; split <;> rfl

/-- `NEGO` cannot fail on a 2-bit code, and carries the flow id of R214. -/
theorem nego_of_code (c : BitVec 2) (fid : BitVec 3) :
    ∃ n, nego c.toNat fid = some (n, if c = 0 ∨ c = 3 then fid else 0) := by
  match c with
  | 0#2 => exact ⟨_, rfl⟩
  | 1#2 => exact ⟨_, rfl⟩
  | 2#2 => exact ⟨_, rfl⟩
  | 3#2 => exact ⟨_, rfl⟩

/-- A setup with a valid command has its payload. -/
theorem setupImage_of_valid (cfg : Cfg) {cmd : Byte} (p : TwtParams) (h : cmd.toNat ≤ 7) :
    setupImage cfg cmd p = .ok (setupPayload cfg cmd p (carriedFlowId p)) := by
  obtain ⟨n, hn⟩ := nego_of_code (field p.ctrl 2 2) p.flowId
  rw [setupImage, if_neg (by omega), hn]
  rfl

/-- A setup with any other command is invalid. -/
theorem setupImage_of_invalid (cfg : Cfg) {cmd : Byte} (p : TwtParams) (h : 7 < cmd.toNat) :
    setupImage cfg cmd p = .error .setupCmd := if_pos h

/-- `TD` cannot fail. -/
theorem tdOf_isSome (f : Byte) : ∃ d, tdOf f = some d := by
  obtain ⟨n, hn⟩ := nego_of_code (field f 5 2) (field f 0 3)
  exact ⟨_, by rw [tdOf, hn]; rfl⟩

/-- A teardown with room sends its payload. -/
theorem teardownRequest_of_room {f : Byte} {s : State} (h : 3 ≤ s.outCap) :
    teardownRequest f s = s.send (teardownPayload s.cfg f) := by
  obtain ⟨d, hd⟩ := tdOf_isSome f
  simp [teardownRequest, hd, h]

/-- A valid setup with room sends its payload. -/
theorem setupRequest_of_room {cmd : Byte} {p : TwtParams} {s : State} (hc : cmd.toNat ≤ 7) (h : 20 ≤ s.outCap) :
    setupRequest cmd p s = s.send (setupPayload s.cfg cmd p (carriedFlowId p)) := by
  simp [setupRequest, setupImage_of_valid s.cfg p hc, h]

/-- A request that `Sends` is the gated send of its payload, which its OutBuf has room for. -/
theorem Sends.exec_eq {s : State} {i : Instr} {P : List Byte} (h : Sends s i P) :
    exec i s = s.send P ∧ P.length ≤ s.outCap := by
  cases h with
  | setup cmd p valid room => exact ⟨setupRequest_of_room valid room, by simpa using room⟩
  | teardown f room => exact ⟨teardownRequest_of_room room, by simpa using room⟩

/-! ### Reset -/

/-- Reset in mid-request changes only OutBuf, the calls and the number of draws. -/
theorem State.cutShort_frame (s : State) :
    s.cutShort.cfg = s.cfg ∧ s.cutShort.request = s.request ∧ s.cutShort.call = s.call ∧
      s.cutShort.assocAnswers = s.assocAnswers ∧ s.cutShort.txAnswers = s.txAnswers := by
  unfold State.cutShort
  split <;> exact ⟨rfl, rfl, rfl, rfl, rfl⟩

/-- What reset leaves: the ports clear, OutBuf, the calls and the number of draws as `cutShort` left them, and nothing
else changed. -/
theorem State.applyReset_eq (s : State) :
    s.applyReset =
      { s with request := none, response := none, call := none, resetIn := false,
               outBuf := s.cutShort.outBuf, calls := s.cutShort.calls, draws := s.cutShort.draws } := by
  unfold State.applyReset State.cutShort
  split <;> rfl

/-- The OutBuf of a request cut short is drawn from its image, or is as it was where it has none. -/
theorem State.cutShort_outBuf (s : State) :
    (s.inFlightImage = none ∧ s.cutShort = s) ∨
    ∃ P b, s.inFlightImage = some (P, b) ∧ s.cutShort.outBuf = s.outBuf.drawBytes s.draws 0 P := by
  unfold State.cutShort
  split
  · exact .inl ⟨‹_›, rfl⟩
  · exact .inr ⟨_, _, ‹_›, rfl⟩
  · exact .inr ⟨_, _, ‹_›, rfl⟩

/-- The executable precondition of RSPEC.ENCODE is R123's. -/
theorem pre_iff_meetsPre (p : RsParams) : pre p = true ↔ p.meetsPre := by
  obtain ⟨enc, _, _, _, _, _, _, _, _, _, _, _, _⟩ := p
  cases enc <;> simp [pre, RsParams.meetsPre] <;> tauto

/-- The bytes in flight of an RSPEC.ENCODE that writes. -/
theorem State.inFlightImage_of_encode {s : State} {r : Request} {p : RsParams} (hr : s.request = some r)
    (hc : s.call = none) (hd : decode r.desc = .ok (.rspecEncode p)) (hp : p.meetsPre) (h : 4 ≤ r.outCap) :
    s.inFlightImage = some (wire s.cfg (pack s.cfg p), false) := by
  simp [State.inFlightImage, hc, hr, requestImage, hd, (pre_iff_meetsPre p).2 hp, h]

/-- The frame in flight of a request that is not yet begun. -/
theorem State.inFlightImage_of_sends {s : State} {r : Request} {i : Instr} {P : List Byte} (hr : s.request = some r)
    (hc : s.call = none) (hd : decode r.desc = .ok i) (h : Sends s i P) : s.inFlightImage = some (P, true) := by
  have ho : s.outCap = r.outCap := by simp [State.outCap, hr]
  simp only [State.inFlightImage, hc, hr, Option.bind_some, requestImage, hd]
  cases h with
  | setup cmd p valid room => simp [setupImage_of_valid _ _ valid, ← ho, room]
  | teardown f room => simp [← ho, room]

/-- A request that is not yet begun, and neither writes a word nor sends, has no bytes in flight. -/
theorem State.inFlightImage_eq_none {s : State} {r : Request} (hr : s.request = some r) (hc : s.call = none)
    (he : ∀ p, decode r.desc = .ok (.rspecEncode p) → ¬ (p.meetsPre ∧ 4 ≤ r.outCap))
    (hs : ∀ i P, decode r.desc = .ok i → ¬ Sends s i P) : s.inFlightImage = none := by
  have ho : s.outCap = r.outCap := by simp [State.outCap, hr]
  simp only [State.inFlightImage, hc, hr, Option.bind_some, requestImage]
  split
  · rename_i p hd
    rw [if_neg (by simpa [pre_iff_meetsPre] using he p hd)]
  · rename_i cmd p hd
    by_cases hv : cmd.toNat ≤ 7
    · rw [setupImage_of_valid _ _ hv]
      exact if_neg fun h => hs _ _ hd (.setup cmd p hv (ho ▸ h))
    · rw [setupImage_of_invalid _ _ (by omega)]
  · rename_i f hd
    rw [if_neg fun h => hs _ _ hd (.teardown f (ho ▸ h))]
  · rfl

/-- The calls that a frame in flight leaves after reset. -/
theorem State.cutShort_calls {s : State} {P : List Byte} (h : s.inFlightImage = some (P, true)) :
    s.cutShort.calls = s.callsIfSent P ∨ ∃ assocMade, s.cutShort.calls = s.callsIfNotSent assocMade := by
  simp only [State.cutShort, h]
  split
  · exact .inl rfl
  · exact .inr ⟨_, rfl⟩

end Sys2Proof.Machine
end

