-- ==== Sys2Proof/Laws/Exec.lean ====
section
/-! SUPPORT. What an instruction can do, said once: it responds and does nothing else, or it is an RSPEC.ENCODE that
commits its word, or it is a gated send. Invariants of `exec` are three short cases from here. -/

namespace Sys2Proof.Machine

/-- The responses that some request gets without a send: all but the transport errors and the two that no operand reaches
(R136, R201). -/
def Response.isLocal : Response → Prop
  | .ok _ => True
  | .validation c => c ≠ .negoType
  | .unsupportedEncoding _ => False
  | .transport _ => False
  | .illegalOp => True
  | .malformed => True
  | .refused _ => True

theorem rateInRange_error {n : Nat} {r : Response} (h : rateInRange n = .error r) : r.isLocal := by
  unfold rateInRange at h; split at h <;> simp_all [Response.isLocal]
  subst h; simp

theorem rate2Of_error {a : Str} {r : Response} (h : rate2Of a = .error r) : r.isLocal := by
  unfold rate2Of at h
  repeat' split at h
  all_goals first | exact rateInRange_error h | (cases h; simp [Response.isLocal])

theorem heArgOf_error {a : Str} {r : Response} (h : heArgOf a = .error r) : r.isLocal := by
  unfold heArgOf at h
  repeat' split at h
  all_goals (cases h <;> simp [Response.isLocal])

theorem giOf_error {a : Str} {r : Response} (h : giOf a = .error r) : r.isLocal := by
  unfold giOf at h
  repeat' split at h
  all_goals (cases h <;> simp [Response.isLocal])

/-- A scan that fails gives one of the local responses. -/
theorem cmdScan_error {st : CmdState} {args : List Str} {r : Response} (h : cmdScan st args = .error r) :
    r.isLocal := by
  fun_induction cmdScan st args <;>
    first
      | (cases h <;> simp [Response.isLocal] <;> done)
      | (rename_i ih; exact ih h)
      | (cases h; first | exact rate2Of_error ‹_› | exact heArgOf_error ‹_› | exact giOf_error ‹_›)

theorem cmdResponse_isLocal (cfg : Cfg) (args : List Str) : (cmdResponse cfg args).isLocal := by
  unfold cmdResponse parseCmd
  cases h : cmdScan CmdState.init args with
  | error r => exact cmdScan_error h
  | ok st => by_cases h' : (!st.seenR && !st.seenE) = true <;> simp [h', Response.isLocal]

theorem tokResponse_isLocal (t : Str) : (tokResponse (ptok t)).isLocal := by
  cases h : ptok t with
  | valid m n => trivial
  | unsettled => trivial
  | invalid c =>
    rintro rfl
    revert h
    unfold ptok tokBody tokAfterInt tokNssOf
    repeat' split
    all_goals simp

theorem decodeResponse_isLocal (cfg : Cfg) (w : Word) : (decodeResponse cfg w).isLocal := by
  have h := (field w 24 2).isLt
  unfold decodeResponse
  split
  · trivial
  · split
    · trivial
    · trivial
    · trivial
    · trivial
    · rename_i h0 h1 h2 h3; generalize (field w 24 2).toNat = n at *
      have : n < 4 := h
      interval_cases n <;> simp_all

theorem ctrlResponse_isLocal (o : Byte) : (ctrlResponse o).isLocal := by
  obtain ⟨n, hn⟩ := nego_of_code (field o 2 2) 0
  rw [ctrlResponse, ctrlOf, hn]; trivial

theorem tdResponse_isLocal (f : Byte) : (tdResponse f).isLocal := by
  obtain ⟨d, hd⟩ := tdOf_isSome f
  simp [tdResponse, hd, Response.isLocal]

theorem setupRequest_cases (cmd : Byte) (p : TwtParams) (s : State) :
    (∃ x, setupRequest cmd p s = .next (s.respond x) ∧ x.isLocal) ∨
    ∃ P, Sends s (.twtSetup cmd p) P ∧ setupRequest cmd p s = s.send P := by
  by_cases hc : cmd.toNat ≤ 7
  · by_cases hr : 20 ≤ s.outCap
    · exact .inr ⟨_, .setup cmd p hc hr, setupRequest_of_room hc hr⟩
    · exact .inl ⟨.refused .buffer, by simp [setupRequest, setupImage_of_valid _ _ hc, hr], trivial⟩
  · exact .inl ⟨.validation .setupCmd, by simp [setupRequest, setupImage_of_invalid _ _ (not_le.mp hc)],
      by simp [Response.isLocal]⟩

theorem teardownRequest_cases (f : Byte) (s : State) :
    (∃ x, teardownRequest f s = .next (s.respond x) ∧ x.isLocal) ∨
    ∃ P, Sends s (.twtTeardown f) P ∧ teardownRequest f s = s.send P := by
  by_cases hr : 3 ≤ s.outCap
  · exact .inr ⟨_, .teardown f hr, teardownRequest_of_room hr⟩
  · obtain ⟨d, hd⟩ := tdOf_isSome f
    exact .inl ⟨.refused .buffer, by simp [teardownRequest, hd, hr], trivial⟩

theorem execRspecEncode_cases (p : RsParams) (s : State) :
    (∃ x, execRspecEncode p s = .next (s.respond x) ∧ x.isLocal) ∨
    4 ≤ s.outCap ∧ execRspecEncode p s = s.commit (wire s.cfg (pack s.cfg p)) (.word (pack s.cfg p)) := by
  unfold execRspecEncode
  split
  · split
    · exact .inr ⟨‹_›, rfl⟩
    · exact .inl ⟨_, rfl, trivial⟩
  · exact .inl ⟨_, rfl, trivial⟩

theorem execTwtProfile_local (pr bd : Byte) (s : State) :
    ∃ x, execTwtProfile pr bd s = .next (s.respond x) ∧ x.isLocal := by
  unfold execTwtProfile
  split
  · exact ⟨_, rfl, trivial⟩
  · exact ⟨_, rfl, trivial⟩

/-- Everything an instruction can do: a response and nothing else, the commit of RSPEC.ENCODE, or a gated send. -/
theorem exec_cases (i : Instr) (s : State) :
    (∃ x, exec i s = .next (s.respond x) ∧ x.isLocal) ∨
    (∃ p, operationOf i = .rspecEncode p ∧ 4 ≤ s.outCap ∧
      exec i s = s.commit (wire s.cfg (pack s.cfg p)) (.word (pack s.cfg p))) ∨
    ∃ P, Sends s (operationOf i) P ∧ exec i s = s.send P := by
  have setup (cmd : Byte) (p : TwtParams) (h : exec i s = setupRequest cmd p s)
      (ho : operationOf i = .twtSetup cmd p) :
      (∃ x, exec i s = .next (s.respond x) ∧ x.isLocal) ∨ ∃ P, Sends s (operationOf i) P ∧ exec i s = s.send P := by
    rw [h, ho]; exact setupRequest_cases cmd p s
  cases i with
  | rspecEncode p => exact (execRspecEncode_cases p s).imp_right fun h => .inl ⟨p, rfl, h⟩
  | rspecDecode w => exact .inl ⟨_, rfl, decodeResponse_isLocal _ _⟩
  | rspecParsetok t => exact .inl ⟨_, rfl, tokResponse_isLocal _⟩
  | rspecParsecmd args => exact .inl ⟨_, rfl, cmdResponse_isLocal _ _⟩
  | twtCtrlmap o => exact .inl ⟨_, rfl, ctrlResponse_isLocal _⟩
  | twtSetup cmd p => exact (setup cmd p rfl rfl).imp_right .inr
  | twtTdmap f => exact .inl ⟨_, rfl, tdResponse_isLocal _⟩
  | twtTeardown f => exact (teardownRequest_cases f s).imp_right .inr
  | twtProfile pr bd => exact .inl (execTwtProfile_local pr bd s)
  | wordAuto _ => exact .inl ⟨_, rfl, trivial⟩
  | wordLegacy _ _ => exact .inl ⟨_, rfl, trivial⟩
  | wordHt _ _ => exact .inl ⟨_, rfl, trivial⟩
  | wordVht _ _ => exact .inl ⟨_, rfl, trivial⟩
  | wordHe _ _ => exact .inl ⟨_, rfl, trivial⟩
  | ctrlIndividual _ _ => exact .inl ⟨_, rfl, ctrlResponse_isLocal _⟩
  | ctrlWakeTbtt _ _ => exact .inl ⟨_, rfl, ctrlResponse_isLocal _⟩
  | ctrlBroadcastInBeacon _ _ => exact .inl ⟨_, rfl, ctrlResponse_isLocal _⟩
  | ctrlBroadcastMembership _ _ => exact .inl ⟨_, rfl, ctrlResponse_isLocal _⟩
  | tdIndividual _ _ => exact .inl ⟨_, rfl, tdResponse_isLocal _⟩
  | tdWakeTbtt _ _ => exact .inl ⟨_, rfl, tdResponse_isLocal _⟩
  | tdBroadcastInBeacon _ _ => exact .inl ⟨_, rfl, tdResponse_isLocal _⟩
  | tdBroadcastMembership _ _ => exact .inl ⟨_, rfl, tdResponse_isLocal _⟩
  | cmdRequest p => exact (setup 0 p rfl rfl).imp_right .inr
  | cmdSuggest p => exact (setup 1 p rfl rfl).imp_right .inr
  | cmdDemand p => exact (setup 2 p rfl rfl).imp_right .inr
  | cmdGrouping p => exact (setup 3 p rfl rfl).imp_right .inr
  | cmdAccept p => exact (setup 4 p rfl rfl).imp_right .inr
  | cmdAlternate p => exact (setup 5 p rfl rfl).imp_right .inr
  | cmdDictate p => exact (setup 6 p rfl rfl).imp_right .inr
  | cmdReject p => exact (setup 7 p rfl rfl).imp_right .inr

end Sys2Proof.Machine
end

