-- ==== Sys2Proof/Laws/PerInstr.lean ====
section
/-! SUPPORT. Statements made of every instruction as syntax, one lemma per constructor. -/

namespace Sys2Proof.Laws.EncodeLength

/-- R81 and R85: the instruction's op code is one of the table, and where the op code has a fixed length the instruction's
descriptor has it. -/
def Statement (i : Instr) : Prop :=
  isOpcode (opcodeOf i) = true ∧ ∀ n, fixedOperands (opcodeOf i) = some n → (encode i).length = n + 1

theorem rspecEncode (p : RsParams) : Statement (.rspecEncode p) := ⟨rfl, fun n h => by cases h; rfl⟩
theorem rspecDecode (w : Word) : Statement (.rspecDecode w) := ⟨rfl, fun n h => by cases h; rfl⟩
theorem rspecParsetok (t : Str) : Statement (.rspecParsetok t) := ⟨rfl, fun n h => by cases h⟩
theorem rspecParsecmd (args : List Str) : Statement (.rspecParsecmd args) := ⟨rfl, fun n h => by cases h⟩
theorem twtCtrlmap (o : Byte) : Statement (.twtCtrlmap o) := ⟨rfl, fun n h => by cases h; rfl⟩
theorem twtSetup (cmd : Byte) (p : TwtParams) : Statement (.twtSetup cmd p) := ⟨rfl, fun n h => by cases h; rfl⟩
theorem twtTdmap (f : Byte) : Statement (.twtTdmap f) := ⟨rfl, fun n h => by cases h; rfl⟩
theorem twtTeardown (f : Byte) : Statement (.twtTeardown f) := ⟨rfl, fun n h => by cases h; rfl⟩
theorem twtProfile (pr bd : Byte) : Statement (.twtProfile pr bd) := ⟨rfl, fun n h => by cases h; rfl⟩
theorem wordAuto (txexp : BitVec 2) : Statement (.wordAuto txexp) := ⟨rfl, fun n h => by cases h; rfl⟩
theorem wordLegacy (hi : BitVec 6) (lo : BitVec 24) : Statement (.wordLegacy hi lo) := ⟨rfl, fun n h => by cases h; rfl⟩
theorem wordHt (hi : BitVec 6) (lo : BitVec 24) : Statement (.wordHt hi lo) := ⟨rfl, fun n h => by cases h; rfl⟩
theorem wordVht (hi : BitVec 6) (lo : BitVec 24) : Statement (.wordVht hi lo) := ⟨rfl, fun n h => by cases h; rfl⟩
theorem wordHe (hi : BitVec 6) (lo : BitVec 24) : Statement (.wordHe hi lo) := ⟨rfl, fun n h => by cases h; rfl⟩
theorem ctrlIndividual (hi : BitVec 4) (lo : BitVec 2) : Statement (.ctrlIndividual hi lo) := ⟨rfl, fun n h => by cases h; rfl⟩
theorem ctrlWakeTbtt (hi : BitVec 4) (lo : BitVec 2) : Statement (.ctrlWakeTbtt hi lo) := ⟨rfl, fun n h => by cases h; rfl⟩
theorem ctrlBroadcastInBeacon (hi : BitVec 4) (lo : BitVec 2) : Statement (.ctrlBroadcastInBeacon hi lo) := ⟨rfl, fun n h => by cases h; rfl⟩
theorem ctrlBroadcastMembership (hi : BitVec 4) (lo : BitVec 2) : Statement (.ctrlBroadcastMembership hi lo) := ⟨rfl, fun n h => by cases h; rfl⟩
theorem tdIndividual (hi : BitVec 1) (lo : BitVec 5) : Statement (.tdIndividual hi lo) := ⟨rfl, fun n h => by cases h; rfl⟩
theorem tdWakeTbtt (hi : BitVec 1) (lo : BitVec 5) : Statement (.tdWakeTbtt hi lo) := ⟨rfl, fun n h => by cases h; rfl⟩
theorem tdBroadcastInBeacon (hi : BitVec 1) (lo : BitVec 5) : Statement (.tdBroadcastInBeacon hi lo) := ⟨rfl, fun n h => by cases h; rfl⟩
theorem tdBroadcastMembership (hi : BitVec 1) (lo : BitVec 5) : Statement (.tdBroadcastMembership hi lo) := ⟨rfl, fun n h => by cases h; rfl⟩
theorem cmdRequest (p : TwtParams) : Statement (.cmdRequest p) := ⟨rfl, fun n h => by cases h; rfl⟩
theorem cmdSuggest (p : TwtParams) : Statement (.cmdSuggest p) := ⟨rfl, fun n h => by cases h; rfl⟩
theorem cmdDemand (p : TwtParams) : Statement (.cmdDemand p) := ⟨rfl, fun n h => by cases h; rfl⟩
theorem cmdGrouping (p : TwtParams) : Statement (.cmdGrouping p) := ⟨rfl, fun n h => by cases h; rfl⟩
theorem cmdAccept (p : TwtParams) : Statement (.cmdAccept p) := ⟨rfl, fun n h => by cases h; rfl⟩
theorem cmdAlternate (p : TwtParams) : Statement (.cmdAlternate p) := ⟨rfl, fun n h => by cases h; rfl⟩
theorem cmdDictate (p : TwtParams) : Statement (.cmdDictate p) := ⟨rfl, fun n h => by cases h; rfl⟩
theorem cmdReject (p : TwtParams) : Statement (.cmdReject p) := ⟨rfl, fun n h => by cases h; rfl⟩

end Sys2Proof.Laws.EncodeLength
end

