-- ==== Sys2Proof/Laws/Step.lean ====
section
/-! SUPPORT. What a step can do, said once: the gated send's five ends, a request taken, a request that goes on at its
outstanding call, and the four cases of a step. -/

namespace Sys2Proof.Machine

/-- The five ends of a gated send (R213, R298). -/
theorem State.send_cases {s t : State} {P : List Byte} (h : s.send P = .next t) :
    (s.assocAnswers = [] ∧ t = s.callAssoc P) ∨
    (∃ as, s.assocAnswers = false :: as ∧ P.length ≤ s.outCap ∧
      t = State.respond (State.drawOutBuf { s.callAssoc P with assocAnswers := as } P) (.transport .notAssociated)) ∨
    (∃ as, s.assocAnswers = true :: as ∧ s.txAnswers = [] ∧
      t = State.callTx { s.callAssoc P with assocAnswers := as } P) ∨
    (∃ as ts, s.assocAnswers = true :: as ∧ s.txAnswers = .ok :: ts ∧ P.length ≤ s.outCap ∧
      t = State.respond { State.callTx { s.callAssoc P with assocAnswers := as } P with
        txAnswers := ts, outBuf := s.outBuf.writeBytes 0 P } (.ok (.payload P))) ∨
    (∃ as ts, s.assocAnswers = true :: as ∧ s.txAnswers = .fail :: ts ∧ P.length ≤ s.outCap ∧
      t = State.respond (State.drawOutBuf { State.callTx { s.callAssoc P with assocAnswers := as } P with
        txAnswers := ts } P) (.transport .txFailed)) := by
  rcases State.awaitAssoc_cases (s := s.callAssoc P) h with ⟨h1, h2⟩ | ⟨as, h1, h2, h3⟩ | ⟨as, h1, h2⟩
  · exact .inl ⟨h1, h2⟩
  · exact .inr (.inl ⟨as, h1, h2, h3⟩)
  · rcases State.awaitTx_cases h2 with ⟨g1, g2⟩ | ⟨ts, g1, g2, g3⟩ | ⟨ts, g1, g2, g3⟩
    · exact .inr (.inr (.inl ⟨as, h1, g1, g2⟩))
    · exact .inr (.inr (.inr (.inl ⟨as, ts, h1, g1, g2, g3⟩)))
    · exact .inr (.inr (.inr (.inr ⟨as, ts, h1, g1, g2, g3⟩)))

/-- What `commit` does when it answers a next state. -/
theorem State.commit_eq_next {s t : State} {P : List Byte} {r : Result} (h : s.commit P r = .next t) :
    P.length ≤ s.outCap ∧ t = { s with outBuf := s.outBuf.writeBytes 0 P }.respond (.ok r) := by
  unfold State.commit at h
  split at h <;> cases h
  exact ⟨‹_›, rfl⟩

/-- A request that goes on at its outstanding call. -/
theorem State.resume_eq_next {s t : State} {c : PendingCall} (h : s.resume c = .next t) :
    (c.port = .assoc ∧ s.awaitAssoc c.payload = .next t) ∨ (c.port = .tx ∧ s.awaitTx c.payload = .next t) := by
  unfold State.resume at h
  split at h
  · exact .inl ⟨‹_›, h⟩
  · exact .inr ⟨‹_›, h⟩

/-- The four cases of a step: reset, nothing to do, an outstanding call, and a request taken. -/
theorem step_cases {s t : State} (h : step s = .next t) :
    (s.resetIn = true ∧ t = s.applyReset) ∨
    (s.resetIn = false ∧ s.request = none ∧ t = s) ∨
    (∃ r c, s.resetIn = false ∧ s.request = some r ∧ s.call = some c ∧ s.resume c = .next t) ∨
    ∃ r, s.takes r := by
  unfold step at h
  split at h
  · cases h; exact .inl ⟨‹_›, rfl⟩
  · have hr : s.resetIn = false := by simpa using ‹¬s.resetIn = true›
    split at h
    · cases h; exact .inr (.inl ⟨hr, ‹_›, rfl⟩)
    · split at h
      · exact .inr (.inr (.inl ⟨_, _, hr, ‹_›, ‹_›, h⟩))
      · exact .inr (.inr (.inr ⟨_, hr, ‹_›, ‹_›⟩))

/-- What a step that takes a request can do: a response and nothing else, the commit of an RSPEC.ENCODE, or a gated
send. -/
theorem step_takes_cases {s t : State} {r : Request} (h : s.takes r) (ht : step s = .next t) :
    (∃ x, x.isLocal ∧ t = s.respond x) ∨
    (∃ p, decode r.desc = .ok (.rspecEncode p) ∧ 4 ≤ s.outCap ∧
      t = { s with outBuf := s.outBuf.writeBytes 0 (wire s.cfg (pack s.cfg p)) }.respond
        (.ok (.word (pack s.cfg p)))) ∨
    ∃ i P, decode r.desc = .ok i ∧ Sends s i P ∧ s.send P = .next t := by
  obtain ⟨h1, h2, h3⟩ := h
  cases hd : decode r.desc with
  | error e =>
    have : step s = .next (s.respond (rejection e)) := by simp [step, h1, h2, h3, hd]
    rw [this] at ht
    cases ht
    exact .inl ⟨_, by cases e <;> trivial, rfl⟩
  | ok i =>
    have hi := operationOf_of_decode hd
    have : step s = exec i s := by simp [step, h1, h2, h3, hd]
    rw [this] at ht
    rcases exec_cases i s with ⟨x, g1, g2⟩ | ⟨p, g1, g2, g3⟩ | ⟨P, g1, g2⟩
    · rw [g1] at ht
      cases ht
      exact .inl ⟨_, g2, rfl⟩
    · rw [g3] at ht
      exact .inr (.inl ⟨p, by rw [← hi, g1], g2, (State.commit_eq_next ht).2⟩)
    · exact .inr (.inr ⟨i, P, rfl, hi ▸ g1, g2 ▸ ht⟩)

/-- A send that ends TRANSPORT drew the OutBuf of its payload, whichever call it was at. -/
theorem State.awaitTx_transport {s t : State} {P : List Byte} {c : TransportCause} (h : s.awaitTx P = .next t)
    (hr : s.request ≠ none) (ht : t.request = none) (hc : t.response = some (.transport c)) :
    ∃ k, t.outBuf = s.outBuf.drawBytes k 0 P := by
  rcases State.awaitTx_cases h with ⟨-, rfl⟩ | ⟨ts, -, -, rfl⟩ | ⟨ts, -, -, rfl⟩
  · exact absurd ht hr
  · cases hc
  · exact ⟨_, rfl⟩

/-- The same for one that starts at its Assoc call. -/
theorem State.awaitAssoc_transport {s t : State} {P : List Byte} {c : TransportCause} (h : s.awaitAssoc P = .next t)
    (hr : s.request ≠ none) (ht : t.request = none) (hc : t.response = some (.transport c)) :
    ∃ k, t.outBuf = s.outBuf.drawBytes k 0 P := by
  rcases State.awaitAssoc_cases h with ⟨-, rfl⟩ | ⟨as, -, -, rfl⟩ | ⟨as, -, h⟩
  · exact absurd ht hr
  · exact ⟨_, rfl⟩
  · exact State.awaitTx_transport (s := State.callTx { s with assocAnswers := as } P) h hr ht hc

/-- A step that ends a request TRANSPORT drew the OutBuf of the frame that was in flight. -/
theorem step_transport {s t : State} {c : TransportCause} (h : s.resetIn = false) (hq : s.request ≠ none)
    (hs : step s = .next t) (ht : t.request = none) (hc : t.response = some (.transport c)) :
    ∃ P k, s.inFlightImage = some (P, true) ∧ t.outBuf = s.outBuf.drawBytes k 0 P := by
  rcases step_cases hs with ⟨g, -⟩ | ⟨-, g, -⟩ | ⟨r, d, -, -, g, hd⟩ | ⟨r, g⟩
  · rw [h] at g; cases g
  · exact absurd g hq
  · refine ⟨d.payload, ?_⟩
    rw [State.inFlightImage, g]
    rcases State.resume_eq_next hd with ⟨-, hd⟩ | ⟨-, hd⟩
    · exact (State.awaitAssoc_transport hd hq ht hc).imp fun _ e => ⟨rfl, e⟩
    · exact (State.awaitTx_transport hd hq ht hc).imp fun _ e => ⟨rfl, e⟩
  · rcases step_takes_cases g hs with ⟨x, g1, rfl⟩ | ⟨p, -, -, rfl⟩ | ⟨i, P, hd, hS, g1⟩
    · cases hc; cases g1
    · cases hc
    · obtain ⟨k, e⟩ := State.awaitAssoc_transport (s := s.callAssoc P) g1 hq ht hc
      exact ⟨P, k, State.inFlightImage_of_sends g.2.1 g.2.2 hd hS, e⟩

/-- A step that ends a request REFUSED. -/
theorem State.refuses_of_next {s t : State} {c : RefusedCause} (h : s.resetIn = false) (hq : s.request ≠ none)
    (hs : step s = .next t) (ht : t.request = none) (hc : t.response = some (.refused c)) : s.Refuses :=
  ⟨hq, t, c, by rw [← h]; exact hs, ht, hc⟩

/-- A request that the model ends otherwise than REFUSED is not refused. -/
theorem State.not_refuses_of_next {s t : State} (h : s.resetIn = false) (hs : step s = .next t)
    (hc : t.request ≠ none ∨ ∀ c, t.response ≠ some (.refused c)) : ¬ s.Refuses := by
  rintro ⟨-, t', c, h1, h2, h3⟩
  rw [← h] at h1
  cases hs.symm.trans h1
  rcases hc with hc | hc
  · exact hc h2
  · exact hc c h3

/-- Where nothing is left open, a chip does what the model does. -/
theorem chipStep_iff_of_settled {s t : State} (hs : step s = .next t) (h : s.resetIn = false) (hr : ¬ s.Refuses)
    (ht : s.request = none ∨ t.request ≠ none ∨ ∀ c, c.IsToken → t.response ≠ some (.validation c))
    (hx : s.request = none ∨ t.request ≠ none ∨ ∀ c, t.response ≠ some (.transport c)) (u : State) :
    ChipStep s u ↔ u = t := by
  constructor
  · rintro (g | g | g | ⟨c, c', g1, -, g2, g3, -⟩ | ⟨t', P, c, g1, g2, g3, g4, -⟩ | ⟨-, -, g, -⟩)
    · cases hs.symm.trans g; rfl
    · exact absurd g hr
    · exact absurd hs (g t)
    · cases hs.symm.trans g3
      exact ((ht.resolve_left g2).resolve_left (not_not.mpr rfl) c g1 rfl).elim
    · cases hs.symm.trans g2
      exact ((hx.resolve_left g1).resolve_left (not_not.mpr g3) c g4).elim
    · rw [h] at g; cases g
  · rintro rfl
    exact .asModel hs

/-- A run's first step. -/
theorem core_run_succ {s t : State} (n : Nat) (h : step s = .next t) :
    Host.Core.run Sys2Proof.core (n + 1) s = Host.Core.run Sys2Proof.core n t := by
  have h' : Sys2Proof.core.step s = .next t := h
  simp only [Host.Core.run, h']

end Sys2Proof.Machine
end

