-- ==== Sys2Proof/Tests/Slice0.lean ====
section
/-! SUPPORT. The model's own tests: ill-formed terms, words written out from the spec's layouts, one-step runs of the vectors
of spec/95_test_vectors.md (named in each comment), and a witness for the hypotheses of each obligation. Every expected
value is the spec's. -/

namespace Sys2Proof.Tests

open Sys2Proof.Machine

/-! ### Small states -/

/-- The reference CFG of spec/95_test_vectors.md section 0. -/
def refCfg : Cfg where
  wireOrder := .le
  erTone106 := true
  lblStbc := ascii " stbc"
  lblLdpc := ascii " ldpc"
  lblSgi := ascii " sgi"
  lblDcm := ascii " dcm"
  lblHegi0 := ascii " 1xLTF GI 0.8us"
  lblHegi1 := ascii " 2xLTF GI 0.8us"
  lblHegi2 := ascii " 2xLTF GI 1.6us"
  lblHegi3 := ascii " 4xLTF GI 3.2us"
  catS1g := 0x16#8
  actSetup := 0x06#8
  actTeardown := 0x07#8
  eidTwt := 0xD8#8

/-- A request with this descriptor and capacity, just put on the port, and the answers that the collaborators give. -/
def given (desc : List Byte) (cap : Nat) (assoc : List Bool) (tx : List TxAnswer) : State where
  cfg := refCfg
  request := some ⟨desc, cap, [0xC7#8]⟩
  response := none
  outBuf := [(1, 0xAA#8), (40, 0xBB#8)]
  call := none
  calls := []
  assocAnswers := assoc
  txAnswers := tx
  draws := 0
  resetIn := false

/-- The same with room for any operation and both collaborators answering yes. -/
def asked (desc : List Byte) : State := given desc 32 [true] [.ok]

/-- The response that a step leaves. -/
def responseOf : Host.Outcome State Fault Refusal → Option Response
  | .next t => t.response
  | .fault _ => none
  | .refused _ => none

/-- The OutBuf bytes 0 to 3 that a step leaves. -/
def wireOf : Host.Outcome State Fault Refusal → List (Option Byte)
  | .next t => [t.outBuf.read 0, t.outBuf.read 1, t.outBuf.read 2, t.outBuf.read 3]
  | .fault _ => []
  | .refused _ => []

/-- The calls that a step leaves. -/
def callsOf : Host.Outcome State Fault Refusal → List PortCall
  | .next t => t.calls
  | .fault _ => []
  | .refused _ => []

/-- Vector SU1's descriptor with the given setup command. -/
def su1 (cmd : Byte) : List Byte :=
  [0x11, 0x00, 0x01, cmd, 0x0A, 0x58, 0x02, 0x08, 0x77, 0x66, 0x55, 0x44, 0x33, 0x22, 0x11, 0x00, 0x00, 0x07, 0x03]

/-- Vector SU1's operands. -/
def su1Params : TwtParams :=
  ⟨0x00, 0x01, 10, 600, 0x08, 0x0011223344556677, 0x00, true, true, true, false, false, 3⟩

/-- Vector SU1's payload, with the request-type byte 6 given. -/
def su1Payload (rt : Byte) : List Byte :=
  [0x16, 0x06, 0x01, 0xD8, 0x0F, 0x00, rt, 0x29, 0x77, 0x66, 0x55, 0x44, 0x33, 0x22, 0x11, 0x00, 0x08, 0x58, 0x02, 0x00]

/-! ### Well-formedness: one ill-formed term for each check -/

theorem test_wellFormed_token_too_long : (Instr.rspecParsetok (List.replicate 256 0x35#8)).wellFormed = false := by
  simp only [Instr.wellFormed, fitsLengthByte, List.length_replicate]
  decide
theorem test_wellFormed_too_many_args : (Instr.rspecParsecmd (List.replicate 256 [])).wellFormed = false := by
  simp only [Instr.wellFormed, fitsLengthByte, List.length_replicate]
  decide
theorem test_wellFormed_arg_too_long :
    (Instr.rspecParsecmd [List.replicate 256 0x35#8]).wellFormed = false := by
  simp only [Instr.wellFormed, fitsLengthByte, List.all_cons, List.all_nil, List.length_replicate]
  decide
theorem test_wellFormed_legacy_is_auto : (Instr.wordLegacy 0 0x000300#24).wellFormed = false := by decide

/-! ### Decoding: every constructor from a word of its layout or class -/

/-- R82: enc 1 (HT), rate 7, bw 2, stbc and sgi (vector E6). -/
theorem test_decode_rspecEncode : decode [0x01, 0x01, 0x07, 0x00, 0x08, 0x05] =
    .ok (.rspecEncode ⟨.ht, 7, 0, 0, 0, 2, true, false, true, false, 0, false, false⟩) := by decide
/-- R82: the word is little-endian. -/
theorem test_decode_rspecDecode : decode [0x02, 0x29, 0x01, 0x43, 0x02] = .ok (.rspecDecode 0x02430129) := by decide
/-- R83 (vector T10). -/
theorem test_decode_rspecParsetok : decode [0x03, 0x06, 0x35, 0x78, 0x32, 0x09, 0x0D, 0x0A] =
    .ok (.rspecParsetok [0x35, 0x78, 0x32, 0x09, 0x0D, 0x0A]) := by decide
/-- R83 (program P1 step 1). -/
theorem test_decode_rspecParsecmd : decode [0x04, 0x05, 0x02, 0x2D, 0x65, 0x04, 0x63, 0x37, 0x73, 0x31, 0x02, 0x2D, 0x69,
      0x01, 0x32, 0x02, 0x2D, 0x6C] =
    .ok (.rspecParsecmd [ascii "-e", ascii "c7s1", ascii "-i", ascii "2", ascii "-l"]) := by decide
theorem test_decode_twtCtrlmap : decode [0x10, 0x3F] = .ok (.twtCtrlmap 0x3F) := by decide
/-- R82 (vector SU1). -/
theorem test_decode_twtSetup : decode (su1 0x00) = .ok (.twtSetup 0 su1Params) := by decide
theorem test_decode_twtTdmap : decode [0x12, 0x23] = .ok (.twtTdmap 0x23) := by decide
theorem test_decode_twtTeardown : decode [0x13, 0x80] = .ok (.twtTeardown 0x80) := by decide
theorem test_decode_twtProfile : decode [0x14, 0x02, 0x01] = .ok (.twtProfile 2 1) := by decide

/-- R93: the mask and match rows, on a word with free bits set. -/
theorem test_class_words :
    classOf (.rspecDecode 0x00000300) = some (.wordAuto 3) ∧
    classOf (.rspecDecode 0xFC00100B) = some (.wordLegacy 0x3F 0x00100B) ∧
    classOf (.rspecDecode 0x01920007) = some (.wordHt 0 0x920007) ∧
    classOf (.rspecDecode 0x06430129) = some (.wordVht 1 0x430129) ∧
    classOf (.rspecDecode 0x83400817) = some (.wordHe 0x20 0x400817) := by decide

/-- R95: mask 0x0C, matches 0x00, 0x04, 0x08, 0x0C. -/
theorem test_class_ctrl :
    classOf (.twtCtrlmap 0x23) = some (.ctrlIndividual 2 3) ∧
    classOf (.twtCtrlmap 0xC4) = some (.ctrlWakeTbtt 0xC 0) ∧
    classOf (.twtCtrlmap 0x19) = some (.ctrlBroadcastInBeacon 1 1) ∧
    classOf (.twtCtrlmap 0x3F) = some (.ctrlBroadcastMembership 3 3) := by decide

/-- R100: mask 0x60, matches 0x00, 0x20, 0x40, 0x60. -/
theorem test_class_td :
    classOf (.twtTdmap 0x83) = some (.tdIndividual 1 3) ∧
    classOf (.twtTdmap 0x23) = some (.tdWakeTbtt 0 3) ∧
    classOf (.twtTdmap 0x5D) = some (.tdBroadcastInBeacon 0 0x1D) ∧
    classOf (.twtTdmap 0xE5) = some (.tdBroadcastMembership 1 5) := by decide

/-- R97: the values 0 to 7, and 8 in no class. -/
theorem test_class_setup_cmd :
    (decode (su1 0x00)).toOption.bind classOf = some (.cmdRequest su1Params) ∧
    (decode (su1 0x01)).toOption.bind classOf = some (.cmdSuggest su1Params) ∧
    (decode (su1 0x02)).toOption.bind classOf = some (.cmdDemand su1Params) ∧
    (decode (su1 0x03)).toOption.bind classOf = some (.cmdGrouping su1Params) ∧
    (decode (su1 0x04)).toOption.bind classOf = some (.cmdAccept su1Params) ∧
    (decode (su1 0x05)).toOption.bind classOf = some (.cmdAlternate su1Params) ∧
    (decode (su1 0x06)).toOption.bind classOf = some (.cmdDictate su1Params) ∧
    (decode (su1 0x07)).toOption.bind classOf = some (.cmdReject su1Params) ∧
    (decode (su1 0x08)).toOption.bind classOf = none := by decide

/-- The rows of spec/opcode_table.json whose own bits name one row (log entry 9): the nine op codes, the words of R93, and the
octets that are no op code and in one class. -/
theorem test_decodeTableWord :
    decodeTableWord 8 0x01 = some (.rspecEncode RsParams.zero) ∧ decodeTableWord 8 0x03 = some (.rspecParsetok []) ∧
    decodeTableWord 8 0x14 = some (.twtProfile 0 0) ∧ decodeTableWord 32 0 = some (.wordAuto 0) ∧
    decodeTableWord 32 0x03000000 = some (.wordHe 0 0) ∧ decodeTableWord 8 0x0C = some (.ctrlBroadcastMembership 0 0) ∧
    decodeTableWord 8 0x60 = some (.tdBroadcastMembership 0 0) ∧ decodeTableWord 8 0x15 = none := by decide

/-! ### Framing and its order (section 2.10) -/

theorem test_framing_F1 : responseOf (step (asked [])) = some .malformed := by decide
theorem test_framing_F3 : responseOf (step (asked [0x05, 0x00, 0x00])) = some .illegalOp := by decide
theorem test_framing_F14 : responseOf (step (asked [0x01, 0x04, 0x00, 0x00, 0x00])) = some .malformed := by decide
theorem test_framing_SE8 : responseOf (step (asked
    [0x11, 0x00, 0x01, 0x08, 0x2A, 0x58, 0x02, 0x08, 0x77, 0x66, 0x55, 0x44, 0x33, 0x22, 0x11, 0x00, 0x00, 0x07, 0x03])) =
    some (.refused .reservedValue) := by decide

/-! ### RSPEC -/

/-- Vector E10, and its wire bytes. -/
theorem test_encode_E10 : responseOf (step (asked [0x01, 0x03, 0x00, 0x8B, 0x70, 0x39])) = some (.ok (.word 0x031CCC8B)) ∧
    wireOf (step (asked [0x01, 0x03, 0x00, 0x8B, 0x70, 0x39])) = [some 0x8B, some 0xCC, some 0x1C, some 0x03] := by decide
/-- Vector EE15, an HE `er_106` without `er_en`, and EE12, E1 with `out_cap` 3. -/
theorem test_encode_EE15_EE12 :
    responseOf (step (asked [0x01, 0x03, 0x00, 0xF3, 0x04, 0x20])) = some (.ok (.word 0x030100F3)) ∧
    responseOf (step (given [0x01, 0x03, 0x00, 0xF3, 0x04, 0x00] 3 [] [])) = some (.refused .buffer) := by decide
/-- Vector DV25, every bit set. -/
theorem test_decode_DV25 : responseOf (step (asked [0x02, 0xFF, 0xFF, 0xFF, 0xFF])) =
    some (.ok (.string (ascii "he mcs 15 Nss 15 Tx Exp 3 BW 2.5 stbc ldpc 4xLTF GI 3.2us dcm er 106"))) := by decide
/-- Vector DV14, an HT word with bit 7 set. -/
theorem test_decode_DV14 : responseOf (step (asked [0x02, 0xFF, 0x00, 0x00, 0x01])) =
    some (.ok (.string (ascii "ht mcs 127 Tx Exp 0 BW auto"))) := by decide
/-- Vector DV2. -/
theorem test_wordAuto_DV2 : responseOf (exec (.wordAuto 3) (asked [])) = some (.ok (.string (ascii "auto"))) := by decide
/-- Vector DV7. -/
theorem test_wordLegacy_DV7 : responseOf (exec (.wordLegacy 0 0x0000FF) (asked [])) =
    some (.ok (.string (ascii "rate 127.5 Mbps Tx Exp 0"))) := by decide
/-- Vector DV13. -/
theorem test_wordHt_DV13 : responseOf (exec (.wordHt 0 0x920007) (asked [])) =
    some (.ok (.string (ascii "ht mcs 7 Tx Exp 0 BW 40 stbc sgi"))) := by decide
/-- Vector DV16. -/
theorem test_wordVht_DV16 : responseOf (exec (.wordVht 0 0x430129) (asked [])) =
    some (.ok (.string (ascii "vht mcs 9 Nss 2 Tx Exp 1 BW 80 ldpc"))) := by decide
/-- Vector DV22. -/
theorem test_wordHe_DV22 : responseOf (exec (.wordHe 0 0x008011) (asked [])) =
    some (.ok (.string (ascii "he mcs 1 Nss 1 Tx Exp 0 BW auto 1xLTF GI 0.8us er 242"))) := by decide
/-- Vectors T10 and S6. -/
theorem test_parsetok_T10_S6 :
    responseOf (step (asked [0x03, 0x06, 0x35, 0x78, 0x32, 0x09, 0x0D, 0x0A])) = some (.ok (.pair 5 2)) ∧
    responseOf (exec (.rspecParsetok (ascii "5x2 garbage")) (asked [])) = some (.validation .tokTrailing) := by decide
/-- R163: `c-5s2` is unsettled, `99999999999x1` is out of range, `x2` has no integer. -/
theorem test_parsetok_R163 :
    responseOf (exec (.rspecParsetok (ascii "c-5s2")) (asked [])) = some (.refused .unsettledForm) ∧
    responseOf (exec (.rspecParsetok (ascii "99999999999x1")) (asked [])) = some (.validation .tokMcsRange) ∧
    responseOf (exec (.rspecParsetok (ascii "x2")) (asked [])) = some (.validation .tokNoInteger) := by decide
/-- R180, its accepted rows. -/
theorem test_parsecmd_R180_words :
    responseOf (exec (.rspecParsecmd [ascii "-e", ascii "c7s1", ascii "-i", ascii "2", ascii "-l"]) (asked [])) =
      some (.ok (.word 0x03400817)) ∧
    responseOf (exec (.rspecParsecmd [ascii "-e", ascii "9"]) (asked [])) = some (.ok (.word 0x030000F9)) ∧
    responseOf (exec (.rspecParsecmd [ascii "-r", ascii "54", ascii "-l"]) (asked [])) =
      some (.ok (.word 0x0040006C)) := by decide
/-- R180, its rejected rows. -/
theorem test_parsecmd_R180_errors :
    responseOf (exec (.rspecParsecmd [ascii "-i", ascii "2", ascii "-e", ascii "5x2"]) (asked [])) =
      some (.validation .cmdGiWithoutE) ∧
    responseOf (exec (.rspecParsecmd [ascii "-l"]) (asked [])) = some (.validation .cmdNoRate) ∧
    responseOf (exec (.rspecParsecmd [ascii "-r", ascii "6", ascii "-e", ascii "5"]) (asked [])) =
      some (.validation .cmdContradictory) ∧
    responseOf (exec (.rspecParsecmd [ascii "-e", ascii "5x2", ascii "-b", ascii "20"]) (asked [])) =
      some (.refused .unimplementedOption) := by decide

/-! ### TWT -/

/-- R203, `CTRL(0xC4)`. -/
theorem test_ctrlmap_R203 : responseOf (step (asked [0x10, 0xC4])) =
    some (.ok (.ctrl ⟨false, false, 1, .wakeTbtt, false, false, 3⟩)) := by decide
/-- R203, `CTRL(0x3F)`, and the other classes. -/
theorem test_ctrl_classes :
    responseOf (exec (.ctrlIndividual 0 0) (asked [])) =
      some (.ok (.ctrl ⟨false, false, 0, .individual, false, false, 0⟩)) ∧
    responseOf (exec (.ctrlWakeTbtt 0xC 0) (asked [])) =
      some (.ok (.ctrl ⟨false, false, 1, .wakeTbtt, false, false, 3⟩)) ∧
    responseOf (exec (.ctrlBroadcastInBeacon 0 0) (asked [])) =
      some (.ok (.ctrl ⟨false, false, 2, .broadcastInBeacon, false, false, 0⟩)) ∧
    responseOf (exec (.ctrlBroadcastMembership 3 3) (asked [])) =
      some (.ok (.ctrl ⟨true, true, 3, .broadcastMembership, true, true, 0⟩)) := by decide
/-- R221, `TD(0x23)`. -/
theorem test_tdmap_R221 : responseOf (step (asked [0x12, 0x23])) =
    some (.ok (.td ⟨3, 0, 1, .wakeTbtt, 0, false⟩)) := by decide
/-- Vectors TD8, TD4, TD5 and TD7. -/
theorem test_td_classes :
    responseOf (exec (.tdIndividual 0 0x18) (asked [])) = some (.ok (.td ⟨0, 3, 0, .individual, 0, false⟩)) ∧
    responseOf (exec (.tdWakeTbtt 0 3) (asked [])) = some (.ok (.td ⟨3, 0, 1, .wakeTbtt, 0, false⟩)) ∧
    responseOf (exec (.tdBroadcastInBeacon 0 5) (asked [])) =
      some (.ok (.td ⟨5, 0, 2, .broadcastInBeacon, 0, false⟩)) ∧
    responseOf (exec (.tdBroadcastMembership 1 5) (asked [])) =
      some (.ok (.td ⟨5, 0, 3, .broadcastMembership, 5, true⟩)) := by decide
/-- R217: the response and the calls. -/
theorem test_setup_R217 : responseOf (step (asked (su1 0x00))) = some (.ok (.payload (su1Payload 0xB1))) ∧
    callsOf (step (asked (su1 0x00))) = [.assoc, .tx (su1Payload 0xB1) [0xC7]] := by decide
/-- R216: `ctrl` 0x04 with flow id 5 packs 0, `ctrl` 0x0C packs 5; bits 7 and 8 of the request-type word are in byte 6 and
7. -/
theorem test_setup_R216 :
    setupImage refCfg 7 ⟨0x04, 0, 0, 0, 0, 0xFFFFFFFFFFFFFFFF, 0, false, false, false, false, false, 5⟩ =
      .ok [0x16, 0x06, 0, 0xD8, 0x0F, 0x04, 0x0E, 0x00, 0xFF, 0xFF, 0xFF, 0xFF, 0xFF, 0xFF, 0xFF, 0xFF, 0, 0, 0, 0] ∧
    setupImage refCfg 7 ⟨0x0C, 0, 0, 0, 0, 0, 0, false, false, false, false, false, 5⟩ =
      .ok [0x16, 0x06, 0, 0xD8, 0x0F, 0x0C, 0x8E, 0x02, 0, 0, 0, 0, 0, 0, 0, 0, 0, 0, 0, 0] := by decide
/-- Vector SE10: a valid setup that is not associated makes no Tx call. -/
theorem test_setup_SE10 : responseOf (step (given (su1 0x00) 32 [false] [.ok])) = some (.transport .notAssociated) ∧
    callsOf (step (given (su1 0x00) 32 [false] [.ok])) = [.assoc] := by decide
/-- Program P3 step 3's payload, and R97's numbers in request-type bits 1 to 3. -/
theorem test_setup_cmds :
    responseOf (exec (.cmdRequest su1Params) (asked [])) = some (.ok (.payload (su1Payload 0xB1))) ∧
    responseOf (exec (.cmdSuggest su1Params) (asked [])) = some (.ok (.payload (su1Payload 0xB3))) ∧
    responseOf (exec (.cmdDemand su1Params) (asked [])) = some (.ok (.payload (su1Payload 0xB5))) ∧
    responseOf (exec (.cmdGrouping su1Params) (asked [])) = some (.ok (.payload (su1Payload 0xB7))) ∧
    responseOf (exec (.cmdAccept su1Params) (asked [])) = some (.ok (.payload (su1Payload 0xB9))) ∧
    responseOf (exec (.cmdAlternate su1Params) (asked [])) = some (.ok (.payload (su1Payload 0xBB))) ∧
    responseOf (exec (.cmdDictate su1Params) (asked [])) = some (.ok (.payload (su1Payload 0xBD))) ∧
    responseOf (exec (.cmdReject su1Params) (asked [])) = some (.ok (.payload (su1Payload 0xBF))) := by decide
/-- Vector TE3, and the bytes of OutBuf past the payload unchanged. -/
theorem test_teardown_TE3 : responseOf (step (asked [0x13, 0x23])) = some (.ok (.payload [0x16, 0x07, 0x23])) ∧
    wireOf (step (asked [0x13, 0x23])) = [some 0x16, some 0x07, some 0x23, none] := by decide
/-- Vectors TE6 and TE9. -/
theorem test_teardown_TE6_TE9 : responseOf (step (given [0x13, 0x80] 2 [true] [.ok])) = some (.refused .buffer) ∧
    responseOf (step (given [0x13, 0x80] 3 [true] [.fail])) = some (.transport .txFailed) := by decide
/-- Vectors PR5 and PR12. -/
theorem test_profile_PR5_PR12 : responseOf (step (asked [0x14, 0x01, 0x01])) = some (.ok (.selection (.setup 2 600 10))) ∧
    responseOf (step (asked [0x14, 0x00, 0x07])) = some (.refused .reservedValue) := by decide
/-- The first instruction after reset, as the host places it. -/
theorem test_withFetchWord : responseOf (step (State.reset.withFetchWord 8 0x14)) =
    some (.ok (.selection (.teardown 0x80))) := by decide

/-! ### Witnesses: for each obligation with hypotheses, concrete values that meet them, clause by clause -/

/-- A request whose Assoc call, or Tx call, is outstanding. -/
def waiting (port : Port) (payload : List Byte) (assoc : List Bool) (tx : List TxAnswer) : State :=
  { given [0x13, 0x80] 3 assoc tx with
    call := some ⟨port, payload⟩, calls := [.assoc, .tx [0x16, 0x07, 0x80] [0xC7]] }

/-- The teardown-all payload under the reference CFG. -/
def te1 : List Byte := [0x16, 0x07, 0x80]

/-- The state that a step gives, or the state itself where it gives none. -/
def after (s : State) : State :=
  match step s with
  | .next t => t
  | .fault _ => s
  | .refused _ => s

/-- Operands of each encoding at the ends of their ranges. -/
def heParams : RsParams := ⟨.he, 127, 11, 15, 3, 7, true, true, false, true, 3, true, true⟩
def vhtParams : RsParams := ⟨.vht, 0, 11, 8, 3, 7, true, true, true, false, 0, false, false⟩
def htParams : RsParams := ⟨.ht, 127, 15, 0, 0, 0, false, false, false, false, 0, false, false⟩
def legacyParams : RsParams := ⟨.legacy, 127, 0, 0, 3, 7, true, true, true, false, 0, false, false⟩

theorem witness_IllegalOpCodesAnswered :
    (asked [0x00]).takes ⟨[0x00], 32, [0xC7]⟩ ∧
    (∀ op ∈ ([0x00, 0x05, 0x0F, 0x15, 0xFF] : List Byte),
      op ∉ ([0x01, 0x02, 0x03, 0x04, 0x10, 0x11, 0x12, 0x13, 0x14] : List Byte)) := by decide

theorem witness_WrongLengthsMalformed :
    (asked []).takes ⟨[], 32, [0xC7]⟩ ∧
    ((asked [0x01, 0, 0, 0, 0]).takes ⟨[0x01, 0, 0, 0, 0], 32, [0xC7]⟩ ∧ [0x01, 0, 0, 0, 0].length ≠ 6) ∧
    ((asked [0x14, 0, 0, 0]).takes ⟨[0x14, 0, 0, 0], 32, [0xC7]⟩ ∧ [0x14, 0, 0, 0].length ≠ 3) ∧
    (asked [0x03]).takes ⟨[0x03], 32, [0xC7]⟩ ∧
    ((asked [0x03, 0x01]).takes ⟨[0x03, 0x01], 32, [0xC7]⟩ ∧ [0x03, 0x01].length ≠ 2 + (0x01#8).toNat) := by decide
/-- The last clause: an entry count of 1 with no entry. -/
theorem witness_WrongLengthsMalformed_args :
    ¬ ∃ args : List Str, args.length ≤ 255 ∧ (∀ a ∈ args, a.length ≤ 255) ∧
      ([0x01] : List Byte) = BitVec.ofNat 8 args.length :: args.flatMap fun a => BitVec.ofNat 8 a.length :: a := by
  rintro ⟨args, -, -, h⟩
  cases args with
  | nil => simp at h
  | cons a as => simp at h

theorem witness_ReservedBitsRefused :
    (asked [0x01, 0x03, 0x7F, 0xFF, 0x7F, 0x3F]).takes ⟨[0x01, 0x03, 0x7F, 0xFF, 0x7F, 0x3F], 32, [0xC7]⟩ ∧
    ((0x03#8).toNat < 4 ∧ (0x7F#8).toNat < 128 ∧ (0x3F#8).toNat < 64) ∧
    ¬ ((0x04#8).toNat < 4) ∧ ¬ ((0x80#8).toNat < 128) ∧ ¬ ((0x40#8).toNat < 64) ∧
    (asked (su1 0x00)).takes ⟨su1 0x00, 32, [0xC7]⟩ ∧ (su1 0x00).tail.length = 18 ∧
    ((0x1F#8).toNat < 32 ∧ (0x07#8).toNat < 8) ∧ ¬ ((0x20#8).toNat < 32) ∧ ¬ ((0x08#8).toNat < 8) := by decide

theorem witness_DecodeInvertsEncode :
    (Instr.rspecParsecmd [[], ascii "-e"]).wellFormed = true ∧
    ((Instr.wordLegacy 0x20 0).wellFormed = true ∧ operationOf (.wordLegacy 0x20 0) ≠ .wordLegacy 0x20 0) ∧
    ((Instr.cmdReject su1Params).wellFormed = true ∧ operationOf (.cmdReject su1Params) ≠ .cmdReject su1Params) := by
  decide
theorem witness_EncodeInvertsDecode : decode [0x04, 0x01, 0x00] = .ok (.rspecParsecmd [[]]) := by decide
theorem witness_ClassRowsRunAsOperations : (Instr.wordLegacy 0 1).wellFormed = true := by decide

theorem witness_StepRunsDecodedRequest :
    ((asked [0x13, 0x80]).takes ⟨[0x13, 0x80], 32, [0xC7]⟩ ∧ decode [0x13, 0x80] = .ok (.twtTeardown 0x80)) ∧
    ((asked [0x13]).takes ⟨[0x13], 32, [0xC7]⟩ ∧ decode [0x13] = .error .malformed) ∧
    (State.reset.resetIn = false ∧ State.reset.request = none) := by decide

/-- Both ends: a response, and a request that waits. -/
theorem witness_OneResponsePerRequest :
    ((asked [0x10, 0xC4]).resetIn = false ∧ (asked [0x10, 0xC4]).request = some ⟨[0x10, 0xC4], 32, [0xC7]⟩ ∧
      (step (asked [0x10, 0xC4]) matches .next _) = true) ∧
    (waiting .tx te1 [] []).resetIn = false ∧ (waiting .tx te1 [] []).request = some ⟨[0x13, 0x80], 3, [0xC7]⟩ ∧
    (step (waiting .tx te1 [] []) matches .next _) = true := by decide

theorem witness_ConfigurationNeverChanges :
    step (asked [0x13, 0x80]) = .next (after (asked [0x13, 0x80])) := rfl

/-- Two states that differ in OutBuf, earlier calls, the last response and the draws. -/
theorem witness_ResponseDependsOnlyOnInputs :
    (asked [0x13, 0x80]).takes ⟨[0x13, 0x80], 32, [0xC7]⟩ ∧
    State.takes { asked [0x13, 0x80] with outBuf := [(0, 1#8)], calls := [.assoc], response := some .malformed, draws := 7 }
      ⟨[0x13, 0x80], 32, [0xC7]⟩ := by decide
theorem witness_ResponseDependsOnlyOnInputs_steps :
    (step (asked [0x13, 0x80]) matches .next _) = true ∧ (after (asked [0x13, 0x80])).request = none ∧
    (after (asked [0x13, 0x80])).response = some (.ok (.payload te1)) := by decide

theorem witness_ErrorResponsesLeaveNothing :
    (asked (su1 0x08)).resetIn = false ∧ (asked (su1 0x08)).request = some ⟨su1 0x08, 32, [0xC7]⟩ ∧
    (step (asked (su1 0x08)) matches .next _) = true ∧ (after (asked (su1 0x08))).request = none ∧
    (after (asked (su1 0x08))).response = some (.validation .setupCmd) ∧
    Response.status (.validation .setupCmd) ≠ .ok ∧ Response.status (.validation .setupCmd) ≠ .transport := by decide

/-- A request that makes both calls and one that makes none. -/
theorem witness_PortCallOrder :
    ((asked [0x13, 0x80]).takes ⟨[0x13, 0x80], 32, [0xC7]⟩ ∧ (step (asked [0x13, 0x80]) matches .next _) = true) ∧
    (asked [0x10, 0xC4]).takes ⟨[0x10, 0xC4], 32, [0xC7]⟩ ∧ (step (asked [0x10, 0xC4]) matches .next _) = true := by
  decide

/-- A request that goes on at its Assoc call, and one at its Tx call. -/
theorem witness_PortCallOrder_resumed :
    ((waiting .assoc te1 [true] []).call = some ⟨.assoc, te1⟩ ∧ (waiting .assoc te1 [true] []).resetIn = false ∧
      (step (waiting .assoc te1 [true] []) matches .next _) = true) ∧
    (waiting .tx te1 [] [.ok]).call = some ⟨.tx, te1⟩ ∧ (step (waiting .tx te1 [] [.ok]) matches .next _) = true := by
  decide
/-- A request that goes on and ends. -/
theorem witness_UnreachableResponsesNeverGiven_resumed :
    (waiting .tx te1 [] [.ok]).request ≠ none ∧ (after (waiting .tx te1 [] [.ok])).request = none := by decide

theorem witness_OnlyThreeOperationsWriteOutBuf :
    (∀ p, operationOf (.tdWakeTbtt 0 3) ≠ .rspecEncode p) ∧
    (∀ cmd p, operationOf (.tdWakeTbtt 0 3) ≠ .twtSetup cmd p) ∧
    ∀ f, operationOf (.tdWakeTbtt 0 3) ≠ .twtTeardown f := by
  simp [operationOf]

theorem witness_UnreachableResponsesNeverGiven :
    (asked [0x12, 0xE5]).takes ⟨[0x12, 0xE5], 32, [0xC7]⟩ ∧ (step (asked [0x12, 0xE5]) matches .next _) = true ∧
    (after (asked [0x12, 0xE5])).request = none := by decide

/-- The invariant holds of a state with a call outstanding; and one step from it is a next state. -/
theorem witness_invariant : (waiting .assoc te1 [true] []).Inv where
  cfgLegal := by decide
  outBufWf := by decide
  callFits := by
    rintro c h
    cases h
    exact ⟨⟨_, rfl, by decide⟩, .inr ⟨rfl, rfl⟩⟩
theorem witness_StepKeepsInvariant :
    step (waiting .assoc te1 [true] []) = .next (after (waiting .assoc te1 [true] [])) ∧
    (after (waiting .assoc te1 [true] [])).call = some ⟨.tx, te1⟩ := ⟨rfl, rfl⟩
theorem witness_RunsNeverStop : ∃ s : State, s.Inv ∧ s.call ≠ none := ⟨_, witness_invariant, by decide⟩

/-- Two lanes, moved 0, 1, 0, and a lane that is not there. -/
theorem witness_InterleavingsAgree :
    (Fleet.run ⟨[asked [0x10, 0xC4], waiting .assoc te1 [true] []]⟩ [0, 1, 0, 5] matches .next _) = true := by decide

/-- Nothing in flight; a write in flight; a frame in flight; a request in flight that writes nothing. -/
theorem witness_ResetClearsPorts :
    (State.resetIn { State.reset with resetIn := true } = true ∧ State.reset.request = none ∧ State.reset.call = none) ∧
    State.inFlightImage { asked [0x01, 0x03, 0x00, 0xF3, 0x04, 0x00] with resetIn := true } =
      some ([0xF3, 0x00, 0x01, 0x03], false) ∧
    State.inFlightImage { asked [0x13, 0x80] with resetIn := true } = some (te1, true) ∧
    State.inFlightImage { asked [0x10, 0xC4] with resetIn := true } = none := by decide
/-- The two clauses of a request not yet begun: an RSPEC.ENCODE with exactly 4 bytes of room, and a teardown that has one
byte too few. -/
theorem witness_ResetClearsPorts_bytes :
    (decode [0x01, 0x03, 0x00, 0xF3, 0x04, 0x00] =
        .ok (.rspecEncode ⟨.he, 0, 3, 15, 0, 1, false, false, false, false, 0, false, false⟩) ∧
      (⟨.he, 0, 3, 15, 0, 1, false, false, false, false, 0, false, false⟩ : RsParams).meetsPre ∧
      State.request { given [0x01, 0x03, 0x00, 0xF3, 0x04, 0x00] 4 [] [] with resetIn := true } =
        some ⟨[0x01, 0x03, 0x00, 0xF3, 0x04, 0x00], 4, [0xC7]⟩) ∧
    decode [0x13, 0x80] = .ok (.twtTeardown 0x80) ∧ ∀ P, ¬ Sends (given [0x13, 0x80] 2 [] []) (.twtTeardown 0x80) P := by
  refine ⟨⟨by decide, by decide, rfl⟩, by decide, ?_⟩
  rintro P ⟨⟩
  exact absurd ‹3 ≤ _› (by decide)
/-- An RSPEC.ENCODE with NSS 15 for VHT, which the model refuses, in flight when reset comes. -/
theorem witness_ResetClearsPorts_refused :
    State.Refuses { asked [0x01, 0x02, 0x00, 0xF5, 0x00, 0x00] with resetIn := true } :=
  ⟨by decide, after (asked [0x01, 0x02, 0x00, 0xF5, 0x00, 0x00]), .precondition, rfl, by decide, by decide⟩
theorem witness_ResetDrawsTheSend :
    State.call { waiting .tx te1 [] [] with resetIn := true } = some ⟨.tx, te1⟩ ∧
    State.calls { waiting .tx te1 [] [] with resetIn := true } = [.assoc] ++ [.tx te1 [0xC7]] ∧
    State.call { waiting .assoc te1 [] [] with resetIn := true } = some ⟨.assoc, te1⟩ := by decide
/-- The last clause: a teardown on the port that is not yet begun. -/
theorem witness_ResetDrawsTheSend_not_begun :
    State.call { given [0x13, 0x80] 3 [] [] with resetIn := true } = none ∧
    State.request { given [0x13, 0x80] 3 [] [] with resetIn := true } = some ⟨[0x13, 0x80], 3, [0xC7]⟩ ∧
    decode [0x13, 0x80] = .ok (.twtTeardown 0x80) ∧
    Sends { given [0x13, 0x80] 3 [] [] with resetIn := true } (.twtTeardown 0x80) te1 :=
  ⟨rfl, rfl, by decide, .teardown 0x80 (by decide)⟩

theorem witness_PackPlacesEveryField :
    heParams.enc = .he ∧ vhtParams.enc = .vht ∧ htParams.enc = .ht ∧ legacyParams.enc = .legacy := by decide
theorem witness_EncodeCompletes :
    (heParams.meetsPre ∧ vhtParams.meetsPre ∧ htParams.meetsPre ∧ legacyParams.meetsPre) ∧
    4 ≤ (given [] 4 [] []).outCap := ⟨⟨by decide, by decide, by decide, by decide⟩, by decide⟩
/-- One operand record for each way to break R123. -/
theorem witness_EncodePreconditionRefused :
    ¬ ({ vhtParams with mcs := 12 } : RsParams).meetsPre ∧ ¬ ({ vhtParams with nss := 15 } : RsParams).meetsPre ∧
    ¬ ({ heParams with nss := 9 } : RsParams).meetsPre ∧ ¬ ({ htParams with er106 := true } : RsParams).meetsPre ∧
    ¬ ({ heParams with sgi := true } : RsParams).meetsPre :=
  ⟨by decide, by decide, by decide, by decide, by decide⟩
theorem witness_EncodePreconditionRefused_request :
    (asked [0x01, 0x02, 0x00, 0xF5, 0x00, 0x00]).takes ⟨[0x01, 0x02, 0x00, 0xF5, 0x00, 0x00], 32, [0xC7]⟩ ∧
    decode [0x01, 0x02, 0x00, 0xF5, 0x00, 0x00] =
      .ok (.rspecEncode ⟨.vht, 0, 5, 15, 0, 0, false, false, false, false, 0, false, false⟩) := by decide
theorem witness_ShortBuffersRefused :
    (heParams.meetsPre ∧ (given (encode (.rspecEncode heParams)) 3 [] []).takes ⟨encode (.rspecEncode heParams), 3, [0xC7]⟩ ∧
      (given (encode (.rspecEncode heParams)) 3 [] []).outCap < 4 ∧
      decode (encode (.rspecEncode heParams)) = .ok (.rspecEncode heParams)) ∧
    ((7#8).toNat ≤ 7 ∧ (given (su1 7) 19 [] []).takes ⟨su1 7, 19, [0xC7]⟩ ∧ (given (su1 7) 19 [] []).outCap < 20 ∧
      decode (su1 7) = .ok (.twtSetup 7 su1Params)) ∧
    ((given [0x13, 0x80] 2 [] []).takes ⟨[0x13, 0x80], 2, [0xC7]⟩ ∧ (given [0x13, 0x80] 2 [] []).outCap < 3 ∧
      decode [0x13, 0x80] = .ok (.twtTeardown 0x80)) := by decide
theorem witness_ReservedWordBitsIgnored :
    (0x00000001#32 &&& 0xFFFFFCFF#32 ≠ 0#32 ∧ 0xFC203001#32 &&& 0xFFFFFCFF#32 ≠ 0#32 ∧
      0x00000001#32 &&& 0x03DFCFFF#32 = 0xFC203001#32 &&& 0x03DFCFFF#32) ∧
    field 0x01000080#32 24 2 = 1#2 ∧ 0x01000080#32 &&& 0x03DFCF7F#32 = 0x01000000#32 &&& 0x03DFCF7F#32 := by decide
theorem witness_EncodedWordsDisplayTheirOperands :
    (heParams.meetsPre ∧ pack refCfg heParams &&& 0xFFFFFCFF#32 ≠ 0#32) ∧
    (vhtParams.meetsPre ∧ pack refCfg vhtParams &&& 0xFFFFFCFF#32 ≠ 0#32) ∧
    (htParams.meetsPre ∧ pack refCfg htParams &&& 0xFFFFFCFF#32 ≠ 0#32) ∧
    legacyParams.meetsPre ∧ pack refCfg legacyParams &&& 0xFFFFFCFF#32 ≠ 0#32 :=
  ⟨⟨by decide, by decide⟩, ⟨by decide, by decide⟩, ⟨by decide, by decide⟩, by decide, by decide⟩
/-- Two records that differ and display alike. -/
theorem witness_DisplayDeterminesFields :
    (legacyParams ≠ { legacyParams with bw := 0, sgi := false } ∧
      legacyParams.meetsPre ∧ ({ legacyParams with bw := 0, sgi := false } : RsParams).meetsPre ∧
      pack refCfg legacyParams &&& 0xFFFFFCFF#32 ≠ 0#32 ∧
      pack refCfg { legacyParams with bw := 0, sgi := false } &&& 0xFFFFFCFF#32 ≠ 0#32) ∧
    exec (.rspecDecode (pack refCfg legacyParams)) (asked []) =
      exec (.rspecDecode (pack refCfg { legacyParams with bw := 0, sgi := false })) (asked []) := by
  refine ⟨by decide, ?_⟩
  have h : decodeResponse refCfg (pack refCfg legacyParams) =
      decodeResponse refCfg (pack refCfg { legacyParams with bw := 0, sgi := false }) := by decide
  exact congrArg (fun r => Host.Outcome.next (State.respond (asked []) r)) h
theorem witness_DisplayStringsAreAscii : (asked []).cfg.legal := by decide

/-- The LEGACY row's least well-formed word (R93). -/
theorem witness_WordClassesComplete : (Instr.wordLegacy 0 1).wellFormed = true := by decide

theorem witness_AcceptedTokensAreTheGrammar :
    ptok (ascii "11x8") = .valid 11 8 ∧ ptok (ascii "c0s1 ") = .valid 0 1 ∧ ptok (ascii "12x1") ≠ .valid 12 1 := by decide
/-- Each rejection, with and without the leading `c`. -/
theorem witness_RejectedTokensNameTheFirstFault :
    ptok (ascii "c-5s2") = .unsettled ∧ ptok (ascii " 5x2") = .unsettled ∧ ptok (ascii "c") = .invalid .tokNoInteger ∧
    ptok (ascii "12x1") = .invalid .tokMcsRange ∧ ptok (ascii "c5x2") = .invalid .tokSeparator ∧
    ptok (ascii "5") = .invalid .tokSeparator ∧ ptok (ascii "5x") = .invalid .tokNss ∧
    ptok (ascii "5x9") = .invalid .tokNss ∧ ptok (ascii "5x0") = .invalid .tokNss ∧
    ptok (ascii "5x10") = .invalid .tokTrailing := by decide
/-- The hypotheses of the last clause together: the token `5x10`, with the run of digits `5` and the tail `0`. -/
theorem witness_RejectedTokens_trailing :
    (ascii "5x10" ≠ [] ∧ (ascii "5x10").head? ≠ some 0x63#8) ∧ ascii "5x10" = ascii "5" ++ ascii "x10" ∧
    ascii "5" ≠ [] ∧ (∀ b ∈ ascii "5", isDigit b) ∧ (∀ b, (ascii "x10").head? = some b → ¬ isDigit b) ∧
    digitsValue (ascii "5") ≤ 11 ∧ ascii "x10" = 0x78#8 :: 0x31#8 :: ascii "0" ∧ isDigit 0x31#8 ∧
    1 ≤ digitVal 0x31#8 ∧ digitVal 0x31#8 ≤ 8 ∧ ∃ b ∈ ascii "0", ¬ isWs b := by decide
theorem witness_CommandsMeetThePrecondition :
    (parseCmd [ascii "-e", ascii "11", ascii "-i", ascii "3"]).isOk = true ∧
    (parseCmd [ascii "-r", ascii "63.5"]).isOk = true := by decide
theorem witness_CommandWordsLeaveFieldsZero :
    (after (asked [0x04, 0x02, 0x02, 0x2D, 0x72, 0x01, 0x36])).response = some (.ok (.word 0x0000000C)) := by decide
theorem witness_RateOptionScalesByTwo :
    (∀ b ∈ ascii "63", isDigit b) ∧ digitsValue (ascii "63") = 63 ∧ (∀ b ∈ ascii "64", isDigit b) ∧
    digitsValue (ascii "64") = 64 ∧ CmdState.init.seenR = false ∧ CmdState.init.seenE = false ∧
    ({ CmdState.init with seenR := true } : CmdState).seenR = true := by decide
theorem witness_DecimalFormsAreTheGrammar :
    isDecimal (ascii " +6.50e-1 ") = true ∧ isDecimal (ascii ".5") = true ∧ isDecimal (ascii "6e") = false ∧
    isDecimal (ascii ".") = false := by decide
/-- `5.0` is neither digits nor digits and `.5`, and is unsettled (R175); nor is `6x`, which is malformed. -/
theorem witness_DecimalForms_argument :
    (¬ ∃ ds : Str, ds ≠ [] ∧ (∀ b ∈ ds, isDigit b) ∧ (ascii "5.0" = ds ∨ ascii "5.0" = ds ++ ascii ".5")) ∧
    isDecimal (ascii "5.0") = true ∧ isDecimal (ascii "6x") = false ∧ CmdState.init.seenR = false ∧
    CmdState.init.seenE = false := by
  refine ⟨?_, by decide, by decide, rfl, rfl⟩
  rintro ⟨ds, -, hd, rfl | h⟩
  · exact absurd (hd 0x2E#8 (by decide)) (by decide)
  · have := congrArg List.getLast? h
    simp [ascii] at this
theorem witness_HeOptionTakesTokensAndBareIntegers :
    ptok (ascii "11x8") = .valid 11 8 ∧ ptok (ascii "+5x2") = .unsettled ∧
    ((∀ b ∈ ascii "11", isDigit b) ∧ (∀ b ∈ ascii " ", isWs b) ∧ digitsValue (ascii "11") = 11) ∧
    digitsValue (ascii "12") = 12 ∧ ptok (ascii "5x9") = .invalid .tokNss ∧ isDigitsWs (ascii "5x9") = false := by decide
/-- The scan's clauses at its start, and the word's two premises at their ends. -/
theorem witness_HeOption_scan :
    (CmdState.init.seenR = false ∧ CmdState.init.seenE = false) ∧ ptok (ascii "11x8") = .valid 11 8 ∧
    (ascii "11 " = ascii "11" ++ ascii " " ∧ ascii "11" ≠ [] ∧ (∀ b ∈ ascii "11", isDigit b) ∧ (∀ b ∈ ascii " ", isWs b) ∧
      digitsValue (ascii "11") = 11) := by decide
/-- The last clause's hypothesis: `5x9` is no bare integer. -/
theorem witness_HeOption_malformed :
    ¬ ∃ ds ws : Str, ascii "5x9" = ds ++ ws ∧ ds ≠ [] ∧ (∀ b ∈ ds, isDigit b) ∧ (∀ b ∈ ws, isWs b) := by
  rintro ⟨ds, ws, h, -, h1, h2⟩
  have hx : 0x78#8 ∈ ds ++ ws := by rw [← h]; decide
  rcases List.mem_append.mp hx with hd | hw
  · exact absurd (h1 _ hd) (by decide)
  · exact absurd (h2 _ hw) (by decide)
theorem witness_GiOptionSetsTheCode :
    ptok (ascii "5x2") = .valid 5 2 ∧ (∀ b ∈ ascii "3", isDigit b) ∧ digitsValue (ascii "3") = 3 ∧
    digitsValue (ascii "4") = 4 ∧ ({ CmdState.init with seenE := true } : CmdState).seenI = false ∧
    ((∀ b ∈ ascii " ", isWs b) ∧ ascii "+" ≠ [] ∧ (∀ b ∈ ascii "1", isDigit b)) ∧
    ((∀ b ∈ ascii "11", isDigit b) ∧ digitsValue (ascii "11") = 11) := by decide
/-- The malformed clause: the empty argument is in no form of R177. -/
theorem witness_GiOption_malformed :
    ¬ ∃ ws sign ds ws' : Str, ([] : Str) = ws ++ sign ++ ds ++ ws' ∧ (∀ b ∈ ws, isWs b) ∧
      (sign = [] ∨ sign = ascii "+" ∨ sign = ascii "-") ∧ ds ≠ [] ∧ (∀ b ∈ ds, isDigit b) ∧ ∀ b ∈ ws', isWs b := by
  rintro ⟨ws, sign, ds, ws', h, -, -, hd, -⟩
  simp_all
theorem witness_OptionOrderRules :
    (CmdState.init.seenI = false ∧ CmdState.init.seenE = false ∧ CmdState.init.seenL = false) ∧
    (⟨true, false, true, true, 0, 0, 15, 0⟩ : CmdState).seenR = true ∧
    (⟨false, true, true, true, 0, 0, 15, 0⟩ : CmdState).seenE = true ∧
    (ascii "-q" ∉ [ascii "-r", ascii "-e", ascii "-i", ascii "-l"] ∧
      ascii "-q" ∉ [ascii "-h", ascii "-v", ascii "-c", ascii "--vht", ascii "-s", ascii "-x", ascii "--stbc", ascii "-g",
        ascii "-b", ascii "-d", ascii "-n"]) ∧
    (cmdScan CmdState.init [ascii "-l"]).isOk = true ∧ (parseCmd [ascii "-r", ascii "6", ascii "-l"]).isOk = true := by
  decide
theorem witness_UnimplementedOptionsRefused :
    ascii "--vht" ∈ [ascii "-h", ascii "-v", ascii "-c", ascii "--vht", ascii "-s", ascii "-x", ascii "--stbc", ascii "-g",
      ascii "-b", ascii "-d", ascii "-n"] ∧ CmdState.init.seenR = false ∧ CmdState.init.seenE = false ∧
    ({ CmdState.init with seenE := true } : CmdState).seenI = false := by decide

theorem witness_OctetClassesComplete (hi : BitVec 4) (lo : BitVec 2) :
    (Instr.ctrlBroadcastMembership hi lo, (3 : BitVec 2), Nego.broadcastMembership) ∈
      [(Instr.ctrlIndividual hi lo, 0, Nego.individual), (.ctrlWakeTbtt hi lo, 1, .wakeTbtt),
        (.ctrlBroadcastInBeacon hi lo, 2, .broadcastInBeacon),
        (.ctrlBroadcastMembership hi lo, 3, .broadcastMembership)] := by simp
theorem witness_SetupPayloadLayout : (7#8).toNat ≤ 7 := by decide
theorem witness_SetupCmdCheckedFirst :
    7 < (8#8).toNat ∧ (asked (su1 8)).request = some ⟨su1 8, 32, [0xC7]⟩ ∧
    responseOf (exec (.twtSetup 8 su1Params) (asked (su1 8))) = some (.validation .setupCmd) := by decide
theorem witness_ControlOctetCopiedVerbatim :
    (setupImage refCfg 7 { su1Params with ctrl := 0x0C }).isOk = true ∧
    (setupImage refCfg 7 { su1Params with ctrl := 0xFF }).isOk = true ∧ field 0xFF#8 2 2 = field 0x0C#8 2 2 := by decide

/-- A setup, a SETUP_CMD row and a teardown that send, each at its smallest capacity. -/
theorem witness_AcceptedSendsComplete :
    Sends (given [] 20 [true] [.ok]) (operationOf (.twtSetup 7 su1Params))
      (setupPayload refCfg 7 su1Params (carriedFlowId su1Params)) ∧
    Sends (given [] 20 [true] [.ok]) (operationOf (.cmdRequest su1Params))
      (setupPayload refCfg 0 su1Params (carriedFlowId su1Params)) ∧
    Sends (given [] 3 [true] [.ok]) (operationOf (.twtTeardown 0x80)) (teardownPayload refCfg 0x80) ∧
    (given [] 3 [true] [.ok]).assocAnswers = [true] ∧ (given [] 3 [true] [.ok]).txAnswers = [.ok] :=
  ⟨.setup 7 su1Params (by decide) (by decide), .setup 0 su1Params (by decide) (by decide),
    .teardown 0x80 (by decide), rfl, rfl⟩
theorem witness_FailedSendsReportTransport :
    Sends (given [] 3 [false] []) (operationOf (.twtTeardown 0x80)) (teardownPayload refCfg 0x80) ∧
    (given [] 3 [false] []).assocAnswers = [false] ∧
    Sends (given [] 3 [true] [.fail]) (operationOf (.twtTeardown 0x80)) (teardownPayload refCfg 0x80) ∧
    (given [] 3 [true] [.fail]).assocAnswers = [true] ∧ (given [] 3 [true] [.fail]).txAnswers = [.fail] :=
  ⟨.teardown 0x80 (by decide), rfl, .teardown 0x80 (by decide), rfl, rfl⟩
theorem witness_UnansweredSendsHang :
    (Sends (given [] 3 [] []) (operationOf (.twtTeardown 0x80)) (teardownPayload refCfg 0x80) ∧
      (given [] 3 [] []).assocAnswers = []) ∧
    ((given [] 3 [true] []).assocAnswers = [true] ∧ (given [] 3 [true] []).txAnswers = []) ∧
    (waiting .tx te1 [] []).resetIn = false ∧ (waiting .tx te1 [] []).request ≠ none ∧
    (waiting .tx te1 [] []).call = some ⟨.tx, te1⟩ ∧ (waiting .tx te1 [] []).txAnswers = [] :=
  ⟨⟨.teardown 0x80 (by decide), rfl⟩, ⟨rfl, rfl⟩, rfl, by decide, rfl, rfl⟩
theorem witness_LateAnswersChangeNothing :
    (given [0x13, 0x80] 3 [] []).takes ⟨[0x13, 0x80], 3, [0xC7]⟩ ∧
    Sends (given [0x13, 0x80] 3 [] []) (.twtTeardown 0x80) (teardownPayload refCfg 0x80) ∧
    (exec (.twtTeardown 0x80) { given [0x13, 0x80] 3 [] [] with assocAnswers := [] } matches .next _) = true :=
  ⟨by decide, .teardown 0x80 (by decide), by decide⟩
/-- A send that gets its Assoc answer and waits at its Tx call. -/
theorem witness_LateAnswersChangeNothing_tx :
    exec (.twtTeardown 0x80) { given [0x13, 0x80] 3 [] [] with assocAnswers := [true], txAnswers := [] } =
      .next { given [0x13, 0x80] 3 [] [] with call := some ⟨.tx, te1⟩, calls := [.assoc, .tx te1 [0xC7]] } := rfl
theorem witness_ProfileSelectsTheTable :
    (3 ≤ (3#8).toNat ∧ 3 ≤ (255#8).toNat) ∧ ((0#8).toNat = 0 ∧ (2#8).toNat < 3) ∧
    ((1#8).toNat = 1 ∧ (0#8).toNat = 0) ∧ ((1#8).toNat = 1 ∧ (2#8).toNat = 2) ∧ (2#8).toNat = 2 := by decide
/-- A step that ends a request REFUSED, one that ends it OK, and one that waits. -/
theorem witness_ResponseCodesAreTheTables :
    (asked [0x14, 0x03, 0x00]).request = some ⟨[0x14, 0x03, 0x00], 32, [0xC7]⟩ ∧
    (after (asked [0x14, 0x03, 0x00])).response = some (.refused .reservedValue) ∧
    (after (asked [0x10, 0xC4])).request = none ∧ (after (waiting .tx te1 [] [])).request ≠ none := by decide
/-- The token `12x9`, whose MCS and NSS are both out of range; a send that fails; and a reset with nothing refused. -/
theorem witness_ResponseCodesAreTheTables_open :
    (asked [0x03, 0x04, 0x31, 0x32, 0x78, 0x39]).request ≠ none ∧
    (after (asked [0x03, 0x04, 0x31, 0x32, 0x78, 0x39])).response = some (.validation .tokMcsRange) ∧
    (after (waiting .tx te1 [] [.fail])).response = some (.transport .txFailed) ∧
    (waiting .tx te1 [] [.fail]).inFlightImage = some (te1, true) ∧
    State.resetIn { State.reset with resetIn := true } = true ∧ State.reset.request = none := by decide
/-- What is refused and what is not where a reset comes: nothing in flight, a teardown with its Assoc call outstanding, and
one that is not yet begun; and a state where the model stops. -/
theorem witness_ResponseCodesAreTheTables_reset :
    (State.inFlightImage { State.reset with resetIn := true } = none ∧ ¬ State.Refuses { State.reset with resetIn := true }) ∧
    (State.inFlightImage { waiting .assoc te1 [] [] with resetIn := true } = some (te1, true) ∧
      ¬ State.Refuses { waiting .assoc te1 [] [] with resetIn := true }) ∧
    (State.inFlightImage { given [0x13, 0x80] 3 [] [] with resetIn := true } = some (te1, true) ∧
      ¬ State.Refuses { given [0x13, 0x80] 3 [] [] with resetIn := true }) ∧
    ∀ t, step { waiting .tx te1 [] [.ok] with request := some ⟨[0x13, 0x80], 2, []⟩ } ≠ .next t := by
  refine ⟨⟨by decide, fun h => h.1 rfl⟩, ⟨by decide, ?_⟩, ⟨by decide, ?_⟩, fun t h => by cases h⟩
  · exact fun ⟨_, _, _, h, e, _⟩ => by cases h; cases e
  · exact fun ⟨_, _, _, h, e, _⟩ => by cases h; cases e
/-- A chip may have sent the frame that reset cuts, with its first byte written alone (R71, R291). -/
theorem test_chip_may_send_at_reset :
    ChipStep { given [0x13, 0x80] 3 [] [] with resetIn := true }
      { given [0x13, 0x80] 3 [] [] with
        request := none, response := none, outBuf := [(0, 0x16#8), (1, 0xAA#8), (40, 0xBB#8)],
        calls := [.assoc, .tx te1 [0xC7]] } := by
  refine .resetDraws te1 true rfl (by decide) (fun _ => by decide) (fun a => ?_) (.inr ⟨rfl, .inl rfl⟩) rfl
  match a with
  | 0 => exact .inr ⟨0x16#8, by decide, by decide⟩
  | a + 1 => exact .inl (by simp [given, Memory.read])
/-- A chip may name the NSS of the token `12x9` instead (93_implementation_defined.md I17). -/
theorem test_chip_may_name_another_token_fault :
    ChipStep (asked [0x03, 0x04, 0x31, 0x32, 0x78, 0x39])
      ((asked [0x03, 0x04, 0x31, 0x32, 0x78, 0x39]).respond (.validation .tokNss)) :=
  .tokenFault .tokMcsRange .tokNss (by decide) (by decide) (by decide) rfl rfl

end Sys2Proof.Tests
end

section

/-! The request-type word (R96). -/

namespace Sys2Proof.Machine

/-- Settles O50: `place` is R96's zero-extension and shift, so the word's eight placements are the statement's eight terms,
the one-bit operands through `flag`. -/
theorem requestTypePlacesEveryField : Obligations.RequestTypePlacesEveryField := by
  intro cmd p fid
  simp only [requestType, place, flag]

end Sys2Proof.Machine
end

section

/-! The checks of a setup before its send (R211). -/

namespace Sys2Proof.Machine

/-- A setup with a command above 7 is answered so, whatever the capacity and the other operands. -/
theorem setupRequest_of_invalid {cmd : Byte} (p : TwtParams) (s : State) (h : 7 < cmd.toNat) :
    setupRequest cmd p s = .next (s.respond (.validation .setupCmd)) := by
  simp [setupRequest, setupImage_of_invalid s.cfg p h]

/-- A valid setup without room for its payload is refused. -/
theorem setupRequest_of_no_room {cmd : Byte} (p : TwtParams) {s : State} (hc : cmd.toNat ≤ 7) (h : ¬ 20 ≤ s.outCap) :
    setupRequest cmd p s = .next (s.respond (.refused .buffer)) := by
  simp [setupRequest, setupImage_of_valid s.cfg p hc, h]

/-- A gated send that ends its request ends it OK or TRANSPORT, so never VALIDATION. -/
theorem State.send_response_ne_validation {s t : State} {P : List Byte} (h : s.send P = .next t)
    (hs : s.request ≠ none) (ht : t.request = none) (c : ValidationCause) : t.response ≠ some (.validation c) := by
  rcases State.send_cases h with ⟨-, rfl⟩ | ⟨as, -, -, rfl⟩ | ⟨as, -, -, rfl⟩ | ⟨as, ts, -, -, -, rfl⟩ |
    ⟨as, ts, -, -, -, rfl⟩
  · exact absurd ht hs
  · simp
  · exact absurd ht hs
  · simp
  · simp

/-- A setup that ends VALIDATION has a command above 7: with a valid one it is refused for want of room, or is a send. -/
theorem lt_of_setupRequest_validation {cmd : Byte} {p : TwtParams} {s t : State} {c : ValidationCause}
    (h : setupRequest cmd p s = .next t) (hs : s.request ≠ none) (ht : t.request = none)
    (hc : t.response = some (.validation c)) : 7 < cmd.toNat := by
  by_contra hv
  have valid : cmd.toNat ≤ 7 := not_lt.mp hv
  by_cases room : 20 ≤ s.outCap
  · rw [setupRequest_of_room valid room] at h
    exact State.send_response_ne_validation h hs ht c hc
  · rw [setupRequest_of_no_room p valid room] at h
    cases h
    cases hc

/-- Settles O52: the command is the only check of a setup that can give VALIDATION, since `NEGO` is total on 2-bit codes
and a gated send ends only OK or TRANSPORT. -/
theorem setupCmdCheckedFirst : Obligations.SetupCmdCheckedFirst := by
  refine ⟨fun cmd p s => setupRequest_of_invalid p s, fun code fid => ?_, fun cmd p s t r c hr h ht hc => ?_⟩
  · obtain ⟨n, hn⟩ := nego_of_code code fid
    simp [hn]
  · have invalid : 7 < cmd.toNat := lt_of_setupRequest_validation h (by simp [hr]) ht hc
    cases h.symm.trans (setupRequest_of_invalid p s invalid)
    cases hc
    exact ⟨invalid, rfl, rfl⟩

end Sys2Proof.Machine
end

section

/-! Fields that are placed and read back, and bytes put together again from their fields. -/

namespace Sys2Proof

/-! ### Reading a field of placed fields -/

theorem field_or {w : Nat} (a b : BitVec w) (lo n : Nat) : field (a ||| b) lo n = field a lo n ||| field b lo n :=
  BitVec.eq_of_getLsbD_eq fun i hi => by
    simp only [getLsbD_field, BitVec.getLsbD_or, hi, decide_true, Bool.true_and]

theorem field_and {w : Nat} (a b : BitVec w) (lo n : Nat) : field (a &&& b) lo n = field a lo n &&& field b lo n :=
  BitVec.eq_of_getLsbD_eq fun i hi => by
    simp only [getLsbD_field, BitVec.getLsbD_and, hi, decide_true, Bool.true_and]

@[simp] theorem field_zero (w lo n : Nat) : field (0#w) lo n = 0#n :=
  BitVec.eq_of_getLsbD_eq fun i hi => by simp only [getLsbD_field, BitVec.getLsbD_zero, Bool.and_false]

/-- A placed value is read back whole. -/
theorem field_place_same {n w lo : Nat} (v : BitVec n) (h : lo + n ≤ w) : field (place w v lo) lo n = v :=
  BitVec.eq_of_getLsbD_eq fun i hi => by
    have hw : lo + i < w := by omega
    simp only [getLsbD_field, getLsbD_place, hi, hw, Nat.le_add_right, Nat.add_sub_cancel_left, decide_true,
      Bool.true_and]

/-- A field read beside a placed value is zero. -/
theorem field_place_disjoint {n w lo lo' m : Nat} (v : BitVec n) (h : lo' + m ≤ lo ∨ lo + n ≤ lo') :
    field (place w v lo) lo' m = 0#m :=
  BitVec.eq_of_getLsbD_eq fun i hi => by
    simp only [getLsbD_field, getLsbD_place, BitVec.getLsbD_zero, Bool.and_eq_false_iff, decide_eq_false_iff_not]
    rcases h with h | h
    · exact .inr (.inr (.inl (by omega)))
    · exact .inr (.inr (.inr (BitVec.getLsbD_of_ge v _ (by omega))))

/-- One bit, as a field. -/
theorem field_one {w : Nat} (b : BitVec w) (i : Nat) : field b i 1 = flag (b.getLsbD i) :=
  BitVec.eq_of_getLsbD_eq fun j hj => by
    obtain rfl : j = 0 := by omega
    simp only [getLsbD_field, getLsbD_flag, hj, Nat.add_zero, decide_true, Bool.true_and]

theorem flag_inj {a b : Bool} : flag a = flag b ↔ a = b := by cases a <;> cases b <;> decide

/-- A bit that a one-bit field holds. -/
theorem getLsbD_of_field_one {w : Nat} {b : BitVec w} {i : Nat} {v : Bool} (h : field b i 1 = flag v) :
    b.getLsbD i = v := flag_inj.1 (field_one b i ▸ h)

/-- A bit that a one-bit field holds zero. -/
theorem getLsbD_eq_false_iff {w : Nat} (b : BitVec w) (i : Nat) : b.getLsbD i = false ↔ field b i 1 = 0#1 := by
  rw [field_one]; cases b.getLsbD i <;> decide

/-! ### A value from its fields -/

/-- Two adjacent fields of a value make one. -/
theorem place_field_or_place_field {w lo lo' n m : Nat} (b : BitVec w) (h : lo' = lo + n) :
    place w (field b lo n) lo ||| place w (field b lo' m) lo' = place w (field b lo (n + m)) lo := by
  subst h
  refine BitVec.eq_of_getLsbD_eq fun i hi => ?_
  simp only [BitVec.getLsbD_or, getLsbD_place, hi, getLsbD_field, decide_true, Bool.true_and]
  rcases Nat.lt_or_ge i lo with h1 | h1
  · simp [show ¬ lo ≤ i by omega, show ¬ lo + n ≤ i by omega]
  rcases Nat.lt_or_ge i (lo + n) with h2 | h2
  · simp [h1, show ¬ lo + n ≤ i by omega, show i - lo < n by omega, show i - lo < n + m by omega]
  · have e : lo + n + (i - (lo + n)) = i := by omega
    have e' : lo + (i - lo) = i := by omega
    have hm : i - (lo + n) < m ↔ i - lo < n + m := by omega
    simp [h1, h2, e, e', hm, show ¬ i - lo < n by omega]

/-- A value is its lowest field where the bits above are zero. -/
theorem place_field_eq_self {w n m : Nat} {b : BitVec w} (hm : n + m = w) (h : field b n m = 0#m) :
    place w (field b 0 n) 0 = b :=
  BitVec.eq_of_getLsbD_eq fun i hi => by
    simp only [getLsbD_place, hi, getLsbD_field, Nat.zero_le, Nat.sub_zero, Nat.zero_add, decide_true, Bool.true_and]
    by_cases hn : i < n
    · simp only [hn, decide_true, Bool.true_and]
    · have hz := congrArg (fun v => v.getLsbD (i - n)) h
      simp only [getLsbD_field, BitVec.getLsbD_zero, show i - n < m by omega, show n + (i - n) = i by omega,
        decide_true, Bool.true_and] at hz
      rw [hz, Bool.and_false]

/-- A value is itself placed at bit 0. -/
@[simp] theorem place_self {w : Nat} (b : BitVec w) : place w b 0 = b := by
  simp [place]

/-- The bits from `n` upward are zero exactly below `2 ^ n`. -/
theorem field_high_eq_zero {w n m : Nat} (b : BitVec w) (hm : n + m = w) : field b n m = 0#m ↔ b.toNat < 2 ^ n := by
  have hb : b.toNat < 2 ^ n * 2 ^ m := by rw [← pow_add, hm]; exact b.isLt
  rw [← BitVec.toNat_inj, field, BitVec.extractLsb'_toNat, Nat.shiftRight_eq_div_pow, BitVec.toNat_ofNat, Nat.zero_mod,
    Nat.mod_eq_of_lt (Nat.div_lt_of_lt_mul hb), Nat.div_eq_zero_iff]
  simp

/-- Two bytes are what their 16-bit value is split into. -/
@[simp] theorem le16_ofLe16 (b0 b1 : Byte) : le16 (ofLe16 b0 b1) = [b0, b1] := by
  simp [le16, ofLe16, field_or, field_place_same, field_place_disjoint]

@[simp] theorem le32_ofLe32 (b0 b1 b2 b3 : Byte) : le32 (ofLe32 b0 b1 b2 b3) = [b0, b1, b2, b3] := by
  simp [le32, ofLe32, field_or, field_place_same, field_place_disjoint]

@[simp] theorem le64_ofLe64 (b0 b1 b2 b3 b4 b5 b6 b7 : Byte) :
    le64 (ofLe64 b0 b1 b2 b3 b4 b5 b6 b7) = [b0, b1, b2, b3, b4, b5, b6, b7] := by
  simp [le64, ofLe64, field_or, field_place_same, field_place_disjoint]

end Sys2Proof
end

section

/-! The descriptor: each op code's layout decoded and encoded (R80 to R85), the class rows (R93, R95, R97, R100), and the
two round trips. -/

namespace Sys2Proof

/-! ### The op codes -/

@[simp] theorem decode_op_encode (l : List Byte) : decode (0x01#8 :: l) = decodeEncode l := rfl
@[simp] theorem decode_op_decode (l : List Byte) : decode (0x02#8 :: l) = decodeDecode l := rfl
@[simp] theorem decode_op_parsetok (l : List Byte) : decode (0x03#8 :: l) = decodeParsetok l := rfl
@[simp] theorem decode_op_parsecmd (l : List Byte) : decode (0x04#8 :: l) = decodeParsecmd l := rfl
@[simp] theorem decode_op_ctrlmap (l : List Byte) : decode (0x10#8 :: l) = decodeOctet .twtCtrlmap l := rfl
@[simp] theorem decode_op_setup (l : List Byte) : decode (0x11#8 :: l) = decodeSetup l := rfl
@[simp] theorem decode_op_tdmap (l : List Byte) : decode (0x12#8 :: l) = decodeOctet .twtTdmap l := rfl
@[simp] theorem decode_op_teardown (l : List Byte) : decode (0x13#8 :: l) = decodeOctet .twtTeardown l := rfl
@[simp] theorem decode_op_profile (l : List Byte) : decode (0x14#8 :: l) = decodeProfile l := rfl

/-- A descriptor that decodes is one of the nine op codes and bytes of its layout. -/
theorem decode_eq_ok {l : List Byte} {i : Instr} (h : decode l = .ok i) :
    ∃ r, (l = 0x01#8 :: r ∧ decodeEncode r = .ok i) ∨ (l = 0x02#8 :: r ∧ decodeDecode r = .ok i) ∨
      (l = 0x03#8 :: r ∧ decodeParsetok r = .ok i) ∨ (l = 0x04#8 :: r ∧ decodeParsecmd r = .ok i) ∨
      (l = 0x10#8 :: r ∧ decodeOctet .twtCtrlmap r = .ok i) ∨ (l = 0x11#8 :: r ∧ decodeSetup r = .ok i) ∨
      (l = 0x12#8 :: r ∧ decodeOctet .twtTdmap r = .ok i) ∨ (l = 0x13#8 :: r ∧ decodeOctet .twtTeardown r = .ok i) ∨
      (l = 0x14#8 :: r ∧ decodeProfile r = .ok i) := by
  cases l with
  | nil => cases h
  | cons op r =>
    refine ⟨r, ?_⟩
    simp only [decode] at h
    unfold decodeOp at h
    split at h <;> simp_all

/-! ### The layout of RSPEC.ENCODE -/

@[simp] theorem RateEnc.ofCode_code (e : RateEnc) : RateEnc.ofCode e.code = e := by cases e <;> rfl

@[simp] theorem RateEnc.code_ofCode (c : BitVec 2) : (RateEnc.ofCode c).code = c := by
  match c with
  | 0#2 | 1#2 | 2#2 | 3#2 => rfl

theorem RateEnc.code_inj {a b : RateEnc} (h : a.code = b.code) : a = b := by
  rw [← a.ofCode_code, h, b.ofCode_code]

/-- The reserved bits of an RSPEC.ENCODE are all zero exactly where its bytes are below these bounds (R82). -/
theorem encodeReserved_eq_false (b1 b2 b4 b5 : Byte) :
    encodeReserved b1 b2 b4 b5 = false ↔ b1.toNat < 4 ∧ b2.toNat < 128 ∧ b4.toNat < 128 ∧ b5.toNat < 64 := by
  have h1 := field_high_eq_zero b1 (n := 2) (m := 6) rfl
  have h2 := field_high_eq_zero b2 (n := 7) (m := 1) rfl
  have h4 := field_high_eq_zero b4 (n := 7) (m := 1) rfl
  have h5 := field_high_eq_zero b5 (n := 6) (m := 2) rfl
  simp only [Nat.reducePow] at h1 h2 h4 h5
  simp [encodeReserved, -BitVec.getLsbD_eq_getElem, getLsbD_eq_false_iff, h1, h2, h4, h5, and_assoc]

/-- The bytes that `encode` gives have no reserved bit, and their fields are the operands. -/
theorem decodeEncode_encodeRsParams (p : RsParams) : decodeEncode (encodeRsParams p) = .ok (.rspecEncode p) := by
  have hres : encodeReserved (place 8 p.enc.code 0) (place 8 p.rate 0)
      (place 8 p.txexp 0 ||| place 8 p.bw 2 ||| place 8 p.heGi 5)
      (place 8 (flag p.stbc) 0 ||| place 8 (flag p.ldpc) 1 ||| place 8 (flag p.sgi) 2 ||| place 8 (flag p.dcm) 3 |||
        place 8 (flag p.erEn) 4 ||| place 8 (flag p.er106) 5) = false := by
    simp [encodeReserved, -BitVec.getLsbD_eq_getElem, getLsbD_eq_false_iff, field_or, field_place_disjoint]
  simp only [encodeRsParams, decodeEncode, hres, Bool.false_eq_true, if_false]
  simp [rsParamsOf, field_or, field_place_same, field_place_disjoint, getElem_place, getElem_flag]

/-- A layout that decodes is the encoding of its operands: every byte is its fields, the reserved ones zero. -/
theorem encodeRsParams_of_decodeEncode {l : List Byte} {i : Instr} (h : decodeEncode l = .ok i) :
    ∃ p, i = .rspecEncode p ∧ encodeRsParams p = l := by
  unfold decodeEncode at h
  split at h
  · rename_i b1 b2 b3 b4 b5
    split at h
    · cases h
    · rename_i hres
      cases h
      simp only [encodeReserved, getLsbD_eq_false_iff, Bool.or_eq_true, not_or, bne_iff_ne, ne_eq, not_not,
        Bool.not_eq_true, and_assoc] at hres
      obtain ⟨h1, h2, h4, h5⟩ := hres
      refine ⟨_, rfl, ?_⟩
      simp [encodeRsParams, rsParamsOf, -BitVec.getLsbD_eq_getElem, ← field_one, place_field_or_place_field]
      exact ⟨place_field_eq_self rfl h1, place_field_eq_self rfl h2, place_field_eq_self rfl h4,
        place_field_eq_self rfl h5⟩
  · cases h

/-! ### The layout of TWT.SETUP -/

/-- The reserved bits of a TWT.SETUP are all zero exactly where its bytes are below these bounds (R82). -/
theorem setupReserved_eq_false (b4 b17 b18 : Byte) :
    setupReserved b4 b17 b18 = false ↔ b4.toNat < 32 ∧ b17.toNat < 32 ∧ b18.toNat < 8 := by
  have h4 := field_high_eq_zero b4 (n := 5) (m := 3) rfl
  have h17 := field_high_eq_zero b17 (n := 5) (m := 3) rfl
  have h18 := field_high_eq_zero b18 (n := 3) (m := 5) rfl
  simp only [Nat.reducePow] at h4 h17 h18
  simp [setupReserved, h4, h17, h18, and_assoc]

theorem decodeSetup_encodeSetup (cmd : Byte) (p : TwtParams) :
    decodeSetup (encodeSetup cmd p) = .ok (.twtSetup cmd p) := by
  have hres : setupReserved (place 8 p.exponent 0)
      (place 8 (flag p.requestor) 0 ||| place 8 (flag p.trigger) 1 ||| place 8 (flag p.implicit) 2 |||
        place 8 (flag p.flowType) 3 ||| place 8 (flag p.protection) 4) (place 8 p.flowId 0) = false := by
    simp [setupReserved, field_or, field_place_disjoint]
  simp only [encodeSetup, le16, le64, List.cons_append, List.nil_append, decodeSetup, hres, Bool.false_eq_true, if_false,
    ofLe16_fields, ofLe64_fields]
  simp [field_place_same, getElem_place, getElem_flag]

theorem encodeSetup_of_decodeSetup {l : List Byte} {i : Instr} (h : decodeSetup l = .ok i) :
    ∃ cmd p, i = .twtSetup cmd p ∧ encodeSetup cmd p = l := by
  unfold decodeSetup at h
  split at h
  · split at h
    · cases h
    · rename_i hres
      cases h
      simp only [setupReserved, Bool.or_eq_true, not_or, bne_iff_ne, ne_eq, not_not, and_assoc] at hres
      obtain ⟨h4, h17, h18⟩ := hres
      refine ⟨_, _, rfl, ?_⟩
      simp [encodeSetup, -BitVec.getLsbD_eq_getElem, ← field_one, place_field_or_place_field]
      exact ⟨place_field_eq_self rfl h4, place_field_eq_self rfl h17, place_field_eq_self rfl h18⟩
  · cases h

/-! ### The layouts of variable length -/

theorem decodeParsetok_lengthByte {t : Str} (h : t.length ≤ 255) :
    decodeParsetok (BitVec.ofNat 8 t.length :: t) = .ok (.rspecParsetok t) := by
  simp only [decodeParsetok, toNat_lengthByte h, if_true]

theorem decodeParsetok_eq_ok {l : List Byte} {i : Instr} (h : decodeParsetok l = .ok i) :
    ∃ t : Str, i = .rspecParsetok t ∧ t.length ≤ 255 ∧ l = BitVec.ofNat 8 t.length :: t := by
  cases l with
  | nil => cases h
  | cons b t =>
    simp only [decodeParsetok] at h
    split at h
    · rename_i hl
      cases h
      exact ⟨t, rfl, by have := b.isLt; omega, by rw [hl, BitVec.ofNat_toNat, BitVec.setWidth_eq]⟩
    · cases h

theorem decodeParsecmd_countByte {args : List Str} (hn : args.length ≤ 255) (ha : ∀ a ∈ args, a.length ≤ 255) :
    decodeParsecmd (BitVec.ofNat 8 args.length :: args.flatMap encodeArg) = .ok (.rspecParsecmd args) := by
  simp only [decodeParsecmd, toNat_lengthByte hn, splitArgs_flatMap args ha]

theorem decodeParsecmd_eq_ok {l : List Byte} {i : Instr} (h : decodeParsecmd l = .ok i) :
    ∃ args : List Str, i = .rspecParsecmd args ∧ args.length ≤ 255 ∧ (∀ a ∈ args, a.length ≤ 255) ∧
      l = BitVec.ofNat 8 args.length :: args.flatMap encodeArg := by
  cases l with
  | nil => cases h
  | cons b r =>
    simp only [decodeParsecmd] at h
    split at h
    · rename_i args hs
      cases h
      obtain ⟨hl, ha, rfl⟩ := splitArgs_eq_some hs
      exact ⟨args, rfl, by have := b.isLt; omega, ha, by rw [hl, BitVec.ofNat_toNat, BitVec.setWidth_eq]⟩
    · cases h

theorem wellFormed_rspecParsetok (t : Str) : (Instr.rspecParsetok t).wellFormed = true ↔ t.length ≤ 255 := by
  simp [Instr.wellFormed, fitsLengthByte]

theorem wellFormed_rspecParsecmd (args : List Str) :
    (Instr.rspecParsecmd args).wellFormed = true ↔ args.length ≤ 255 ∧ ∀ a ∈ args, a.length ≤ 255 := by
  simp [Instr.wellFormed, fitsLengthByte]

/-! ### The layouts of one word, one octet, and two codes -/

theorem decodeDecode_le32 (w : Word) : decodeDecode (le32 w) = .ok (.rspecDecode w) := by
  simp only [le32, decodeDecode, ofLe32_fields]

theorem decodeDecode_eq_ok {l : List Byte} {i : Instr} (h : decodeDecode l = .ok i) :
    ∃ w, i = .rspecDecode w ∧ l = le32 w := by
  unfold decodeDecode at h
  split at h
  · cases h; exact ⟨_, rfl, (le32_ofLe32 ..).symm⟩
  · cases h

theorem decodeOctet_eq_ok {f : Byte → Instr} {l : List Byte} {i : Instr} (h : decodeOctet f l = .ok i) :
    ∃ b, i = f b ∧ l = [b] := by
  unfold decodeOctet at h
  split at h
  · cases h; exact ⟨_, rfl, rfl⟩
  · cases h

theorem decodeProfile_eq_ok {l : List Byte} {i : Instr} (h : decodeProfile l = .ok i) :
    ∃ pr bd, i = .twtProfile pr bd ∧ l = [pr, bd] := by
  unfold decodeProfile at h
  split at h
  · cases h; exact ⟨_, _, rfl, rfl⟩
  · cases h

end Sys2Proof
end

section

/-! The class rows as their operations (R93, R95, R97, R100), and the two round trips of the descriptor. -/

namespace Sys2Proof

/-! ### Words and octets of a class -/

theorem or_rev {n : Nat} (a b c : BitVec n) : a ||| b ||| c = c ||| b ||| a := by ac_rfl

theorem isAuto_iff (w : Word) : isAuto w = true ↔ w &&& 0xFFFFFCFF#32 = 0#32 := by simp [isAuto]

theorem isAuto_eq_false_iff (w : Word) : isAuto w = false ↔ w &&& 0xFFFFFCFF#32 ≠ 0#32 := by
  rw [Ne, ← isAuto_iff, Bool.not_eq_true]

theorem isAuto_autoWord (txexp : BitVec 2) : isAuto (autoWord txexp) = true := by
  revert txexp; decide

@[simp] theorem field_autoWord (txexp : BitVec 2) : field (autoWord txexp) 8 2 = txexp :=
  field_place_same txexp (by decide)

/-- A word of another class than LEGACY is not AUTO. -/
theorem isAuto_wordOf_of_code {hi : BitVec 6} {c : BitVec 2} {lo : BitVec 24} (hc : c ≠ 0#2) :
    isAuto (wordOf hi c lo) = false :=
  Bool.eq_false_iff.2 fun h => hc (eq_zero_of_isAuto_wordOf h).1

/-- The word of a well-formed LEGACY row is not AUTO (R93). -/
theorem isAuto_wordOf_of_wellFormed {hi : BitVec 6} {lo : BitVec 24} (h : (Instr.wordLegacy hi lo).wellFormed = true) :
    isAuto (wordOf hi 0#2 lo) = false := by
  refine Bool.eq_false_iff.2 fun ha => ?_
  obtain ⟨-, hhi, hlo⟩ := eq_zero_of_isAuto_wordOf ha
  simp [Instr.wellFormed, legacyNotAuto, hhi, hlo] at h

/-- A word that no bit outside `txexp` keeps from being AUTO, read as a LEGACY row, is AUTO. -/
theorem isAuto_wordOf_zero {lo : BitVec 24} (h : lo &&& 0xFFFCFF#24 = 0#24) : isAuto (wordOf 0#6 0#2 lo) = true := by
  rw [isAuto_iff]
  have mask : ∀ i < 24, (0xFFFFFCFF#32).getLsbD i = (0xFFFCFF#24).getLsbD i := by decide
  refine BitVec.eq_of_getLsbD_eq fun i hi => ?_
  rw [show wordOf 0#6 0#2 lo = lo.setWidth 32 by simp [wordOf, place], BitVec.getLsbD_and, BitVec.getLsbD_setWidth]
  by_cases hlo : i < 24
  · rw [mask i hlo, Bool.and_assoc, ← BitVec.getLsbD_and, h]
    simp
  · simp [BitVec.getLsbD_of_ge lo i (by omega)]

/-- A word is its class's code and the bits that the class leaves free. -/
theorem wordOf_field_eq (w : Word) : wordOf (field w 26 6) (field w 24 2) (field w 0 24) = w := by
  rw [wordOf, or_rev, place_field_or_place_field _ rfl, place_field_or_place_field _ rfl]
  simp

theorem autoWord_of_fields {w : Word} (below : field w 0 8 = 0#8) (above : field w 10 22 = 0#22) :
    autoWord (field w 8 2) = w := by
  calc autoWord (field w 8 2)
    _ = place 32 (field w 0 8) 0 ||| place 32 (field w 8 2) 8 := by rw [below]; simp [autoWord, place]
    _ = place 32 (field w 0 10) 0 := place_field_or_place_field w rfl
    _ = w := place_field_eq_self rfl above

/-- The AUTO test reads the fields below and above `txexp` (R92). -/
theorem isAuto_iff_fields (w : Word) : isAuto w = true ↔ field w 0 8 = 0#8 ∧ field w 10 22 = 0#22 := by
  rw [isAuto_iff]
  constructor
  · intro h
    have below := congrArg (field · 0 8) h
    have above := congrArg (field · 10 22) h
    simp only [field_and, field_zero, show field 0xFFFFFCFF#32 0 8 = BitVec.allOnes 8 by decide,
      show field 0xFFFFFCFF#32 10 22 = BitVec.allOnes 22 by decide, BitVec.and_allOnes] at below above
    exact ⟨below, above⟩
  · rintro ⟨below, above⟩
    have key : ∀ v : BitVec 2, place 32 v 8 &&& 0xFFFFFCFF#32 = 0#32 := by decide
    rw [← autoWord_of_fields below above, autoWord, key]

/-- An AUTO word is its `txexp` (R92). -/
theorem autoWord_field_eq {w : Word} (h : isAuto w = true) : autoWord (field w 8 2) = w :=
  have ⟨below, above⟩ := (isAuto_iff_fields w).1 h
  autoWord_of_fields below above

/-! ### The class row of an operation's operand -/

/-- The second-level decode of a class row's operation gives the row back (R93, R95, R97, R100). -/
theorem classOf_operationOf {i : Instr} (h : i.wellFormed = true) (hc : operationOf i ≠ i) :
    classOf (operationOf i) = some i := by
  cases i with
  | rspecEncode | rspecDecode | rspecParsetok | rspecParsecmd | twtCtrlmap | twtSetup | twtTdmap | twtTeardown
  | twtProfile => exact absurd rfl hc
  | wordAuto txexp =>
    simp only [operationOf, classOf, classOfWord, isAuto_autoWord, if_true, field_autoWord]
  | wordLegacy hi lo => simp [operationOf, classOf, classOfWord, isAuto_wordOf_of_wellFormed h, wordOf_fields]
  | wordHt hi lo | wordVht hi lo | wordHe hi lo =>
    simp [operationOf, classOf, classOfWord, isAuto_wordOf_of_code, wordOf_fields]
  | ctrlIndividual hi lo | ctrlWakeTbtt hi lo | ctrlBroadcastInBeacon hi lo | ctrlBroadcastMembership hi lo =>
    simp [operationOf, classOf, classOfCtrl, ctrlOctetOf_fields]
  | tdIndividual hi lo | tdWakeTbtt hi lo | tdBroadcastInBeacon hi lo | tdBroadcastMembership hi lo =>
    simp [operationOf, classOf, classOfTd, tdOctetOf_fields]
  | cmdRequest | cmdSuggest | cmdDemand | cmdGrouping | cmdAccept | cmdAlternate | cmdDictate | cmdReject => rfl

/-- RSPEC.DECODE of a word is the operation of the word's class row. -/
theorem operationOf_classOfWord (w : Word) : operationOf (classOfWord w) = .rspecDecode w := by
  have hw := wordOf_field_eq w
  unfold classOfWord
  split
  · rw [operationOf, autoWord_field_eq ‹_›]
  · split <;> rename_i hc <;> rw [hc] at hw <;> rw [operationOf, hw]

theorem wellFormed_classOfWord (w : Word) : (classOfWord w).wellFormed = true := by
  unfold classOfWord
  split
  · rfl
  · rename_i ha
    split
    · rename_i hc
      by_contra hwf
      obtain ⟨hhi, hlo⟩ : field w 26 6 = 0#6 ∧ field w 0 24 &&& 0xFFFCFF#24 = 0#24 := by
        simpa [Instr.wellFormed, legacyNotAuto] using hwf
      have hw := wordOf_field_eq w
      rw [hhi, hc] at hw
      exact ha (hw ▸ isAuto_wordOf_zero hlo)
    · rfl
    · rfl
    · rfl

theorem classOfWord_ne_rspecDecode (w v : Word) : classOfWord w ≠ .rspecDecode v := by
  unfold classOfWord
  split
  · simp
  · split <;> simp

/-! ### The two round trips -/

/-- Every well-formed row's descriptor decodes to the row's operation. -/
theorem decode_encode {i : Instr} (h : i.wellFormed = true) : decode (encode i) = .ok (operationOf i) := by
  cases i with
  | rspecEncode p => exact decodeEncode_encodeRsParams p
  | rspecDecode | wordAuto | wordLegacy | wordHt | wordVht | wordHe => exact decodeDecode_le32 _
  | rspecParsetok t => exact decodeParsetok_lengthByte ((wellFormed_rspecParsetok t).1 h)
  | rspecParsecmd args =>
    obtain ⟨hn, ha⟩ := (wellFormed_rspecParsecmd args).1 h
    exact decodeParsecmd_countByte hn ha
  | twtSetup cmd p => exact decodeSetup_encodeSetup cmd p
  | cmdRequest p | cmdSuggest p | cmdDemand p | cmdGrouping p | cmdAccept p | cmdAlternate p | cmdDictate p
  | cmdReject p => exact decodeSetup_encodeSetup _ p
  | twtCtrlmap | ctrlIndividual | ctrlWakeTbtt | ctrlBroadcastInBeacon | ctrlBroadcastMembership | twtTdmap
  | tdIndividual | tdWakeTbtt | tdBroadcastInBeacon | tdBroadcastMembership | twtTeardown | twtProfile => rfl

/-- A descriptor that decodes is the encoding of a well-formed operation. -/
theorem encode_of_decode {l : List Byte} {i : Instr} (h : decode l = .ok i) : encode i = l ∧ i.wellFormed = true := by
  obtain ⟨r, ⟨rfl, h⟩ | ⟨rfl, h⟩ | ⟨rfl, h⟩ | ⟨rfl, h⟩ | ⟨rfl, h⟩ | ⟨rfl, h⟩ | ⟨rfl, h⟩ | ⟨rfl, h⟩ | ⟨rfl, h⟩⟩ :=
    decode_eq_ok h
  · obtain ⟨p, rfl, rfl⟩ := encodeRsParams_of_decodeEncode h
    exact ⟨rfl, rfl⟩
  · obtain ⟨w, rfl, rfl⟩ := decodeDecode_eq_ok h
    exact ⟨rfl, rfl⟩
  · obtain ⟨t, rfl, ht, rfl⟩ := decodeParsetok_eq_ok h
    exact ⟨rfl, (wellFormed_rspecParsetok t).2 ht⟩
  · obtain ⟨args, rfl, hn, ha, rfl⟩ := decodeParsecmd_eq_ok h
    exact ⟨rfl, (wellFormed_rspecParsecmd args).2 ⟨hn, ha⟩⟩
  · obtain ⟨o, rfl, rfl⟩ := decodeOctet_eq_ok h
    exact ⟨rfl, rfl⟩
  · obtain ⟨cmd, p, rfl, rfl⟩ := encodeSetup_of_decodeSetup h
    exact ⟨rfl, rfl⟩
  · obtain ⟨f, rfl, rfl⟩ := decodeOctet_eq_ok h
    exact ⟨rfl, rfl⟩
  · obtain ⟨f, rfl, rfl⟩ := decodeOctet_eq_ok h
    exact ⟨rfl, rfl⟩
  · obtain ⟨pr, bd, rfl, rfl⟩ := decodeProfile_eq_ok h
    exact ⟨rfl, rfl⟩

/-- Settles O5, layout by layout: a class row is encoded as its operation, and its operand's fields are the row's. -/
theorem decodeInvertsEncode : Obligations.DecodeInvertsEncode :=
  fun _ h => ⟨decode_encode h, classOf_operationOf h⟩

/-- Settles O6, layout by layout: the bytes of a descriptor that decodes are put together again from their fields. -/
theorem encodeInvertsDecode : Obligations.EncodeInvertsDecode := by
  intro desc i h
  obtain ⟨he, hw⟩ := encode_of_decode h
  exact ⟨he, hw, operationOf_of_decode h⟩

/-- Settles O7: the row is `classOfWord`'s, and any other is it, being the second-level decode of the same operation. -/
theorem everyWordHasOneClass : Obligations.EveryWordHasOneClass := by
  intro w
  refine ⟨classOfWord w, ⟨classOfWord_ne_rspecDecode w w, wellFormed_classOfWord w, operationOf_classOfWord w⟩, ?_⟩
  rintro i ⟨hne, hwf, ho⟩
  have hi : classOf (operationOf i) = some i := classOf_operationOf hwf fun e => hne (e ▸ ho)
  rw [ho] at hi
  exact (Option.some.inj hi).symm

end Sys2Proof
end

section

/-! Framing: the checks of a descriptor (R80 to R85), and the step that runs or rejects it. -/

namespace Sys2Proof.Machine

/-! ### The step on a request just taken -/

theorem step_of_decode {s : State} {r : Request} {i : Instr} (h : s.takes r) (hd : decode r.desc = .ok i) :
    step s = exec i s := by
  obtain ⟨hr, hq, hc⟩ := h
  simp [step, hr, hq, hc, hd]

theorem step_of_reject {s : State} {r : Request} {e : DecodeError} (h : s.takes r) (hd : decode r.desc = .error e) :
    step s = .next (s.respond (rejection e)) := by
  obtain ⟨hr, hq, hc⟩ := h
  simp [step, hr, hq, hc, hd]

theorem step_of_no_request {s : State} (hr : s.resetIn = false) (hq : s.request = none) : step s = .next s := by
  simp [step, hr, hq]

theorem step_of_call {s : State} {c : PendingCall} (hr : s.resetIn = false) (hq : s.request ≠ none)
    (hc : s.call = some c) : step s = s.resume c := by
  obtain ⟨r, hq⟩ := Option.ne_none_iff_exists'.1 hq
  simp [step, hr, hq, hc]

theorem step_of_reset {s : State} (hr : s.resetIn = true) : step s = .next s.applyReset := by
  simp [step, hr]

/-! ### What the layouts reject -/

theorem decode_illegal {op : Byte} (l : List Byte)
    (h : op ∉ ([0x01, 0x02, 0x03, 0x04, 0x10, 0x11, 0x12, 0x13, 0x14] : List Byte)) :
    decode (op :: l) = .error .illegalOp := by
  simp only [decode]
  unfold decodeOp
  split <;> simp_all

theorem decodeEncode_of_length {l : List Byte} (h : l.length ≠ 5) : decodeEncode l = .error .malformed := by
  unfold decodeEncode
  split
  · exact absurd rfl h
  · rfl

theorem decodeDecode_of_length {l : List Byte} (h : l.length ≠ 4) : decodeDecode l = .error .malformed := by
  unfold decodeDecode
  split
  · exact absurd rfl h
  · rfl

theorem decodeOctet_of_length (f : Byte → Instr) {l : List Byte} (h : l.length ≠ 1) :
    decodeOctet f l = .error .malformed := by
  unfold decodeOctet
  split
  · exact absurd rfl h
  · rfl

theorem decodeSetup_of_length {l : List Byte} (h : l.length ≠ 18) : decodeSetup l = .error .malformed := by
  unfold decodeSetup
  split
  · exact absurd rfl h
  · rfl

theorem decodeProfile_of_length {l : List Byte} (h : l.length ≠ 2) : decodeProfile l = .error .malformed := by
  unfold decodeProfile
  split
  · exact absurd rfl h
  · rfl

/-- R85: an op code of a fixed length with another number of bytes. -/
theorem decode_of_length {op : Byte} {n : Nat} {l : List Byte}
    (h : (op, n) ∈ ([(0x01, 6), (0x02, 5), (0x10, 2), (0x11, 19), (0x12, 2), (0x13, 2), (0x14, 3)] : List (Byte × Nat)))
    (hl : (op :: l).length ≠ n) : decode (op :: l) = .error .malformed := by
  simp only [List.mem_cons, Prod.mk.injEq, List.not_mem_nil, or_false] at h
  rw [List.length_cons] at hl
  obtain ⟨rfl, rfl⟩ | ⟨rfl, rfl⟩ | ⟨rfl, rfl⟩ | ⟨rfl, rfl⟩ | ⟨rfl, rfl⟩ | ⟨rfl, rfl⟩ | ⟨rfl, rfl⟩ := h
  · exact decodeEncode_of_length (by omega)
  · exact decodeDecode_of_length (by omega)
  · exact decodeOctet_of_length _ (by omega)
  · exact decodeSetup_of_length (by omega)
  · exact decodeOctet_of_length _ (by omega)
  · exact decodeOctet_of_length _ (by omega)
  · exact decodeProfile_of_length (by omega)

/-- R83: a token descriptor whose length byte is not the number of bytes after it. -/
theorem decodeParsetok_of_length {l : Byte} {t : List Byte} (h : t.length ≠ l.toNat) :
    decodeParsetok (l :: t) = .error .malformed := if_neg h

/-- R83: a command descriptor that is not its count of whole entries. -/
theorem decodeParsecmd_of_not_entries {l : List Byte}
    (h : ¬ ∃ args : List Str, args.length ≤ 255 ∧ (∀ a ∈ args, a.length ≤ 255) ∧
      l = BitVec.ofNat 8 args.length :: args.flatMap encodeArg) : decodeParsecmd l = .error .malformed := by
  unfold decodeParsecmd
  split
  · rfl
  · split
    · rename_i args hs
      obtain ⟨hn, ha, rfl⟩ := splitArgs_eq_some hs
      exact absurd ⟨args, by have := BitVec.isLt ‹Byte›; omega, ha, by rw [hn, BitVec.ofNat_toNat, BitVec.setWidth_eq]⟩ h
    · rfl

/-- The layout of RSPEC.ENCODE decodes exactly without a reserved bit. -/
theorem decodeEncode_five (b1 b2 b3 b4 b5 : Byte) :
    decodeEncode [b1, b2, b3, b4, b5] =
      if b1.toNat < 4 ∧ b2.toNat < 128 ∧ b4.toNat < 128 ∧ b5.toNat < 64 then
        .ok (.rspecEncode (rsParamsOf b1 b2 b3 b4 b5))
      else .error .reservedValue := by
  simp only [← encodeReserved_eq_false, decodeEncode]
  cases encodeReserved b1 b2 b4 b5 <;> rfl

theorem decodeSetup_of_not_reserved {b1 b2 b3 b4 b5 b6 b7 b8 b9 b10 b11 b12 b13 b14 b15 b16 b17 b18 : Byte}
    (h : b4.toNat < 32 ∧ b17.toNat < 32 ∧ b18.toNat < 8) :
    ∃ i, decodeSetup [b1, b2, b3, b4, b5, b6, b7, b8, b9, b10, b11, b12, b13, b14, b15, b16, b17, b18] = .ok i :=
  ⟨_, by rw [decodeSetup, (setupReserved_eq_false b4 b17 b18).2 h]; rfl⟩

theorem decodeSetup_of_reserved {b1 b2 b3 b4 b5 b6 b7 b8 b9 b10 b11 b12 b13 b14 b15 b16 b17 b18 : Byte}
    (h : ¬ (b4.toNat < 32 ∧ b17.toNat < 32 ∧ b18.toNat < 8)) :
    decodeSetup [b1, b2, b3, b4, b5, b6, b7, b8, b9, b10, b11, b12, b13, b14, b15, b16, b17, b18] =
      .error .reservedValue := by
  rw [← setupReserved_eq_false, Bool.not_eq_false] at h
  rw [decodeSetup, if_pos h]

/-! ### The statements -/

/-- Settles O1: each descriptor is decoded by evaluation. -/
theorem sampleDescriptorsDecode : Obligations.SampleDescriptorsDecode := by
  unfold Obligations.SampleDescriptorsDecode
  decide

/-- Settles O2: the last arm of `decodeOp` is reached by every other op code. -/
theorem illegalOpCodesAnswered : Obligations.IllegalOpCodesAnswered := by
  intro s r op rest h hd hop
  exact step_of_reject h (hd ▸ decode_illegal rest hop)

/-- Settles O3: every layout takes exactly its own length, and a command only whole entries. -/
theorem wrongLengthsMalformed : Obligations.WrongLengthsMalformed := by
  intro s r h
  have malformed (hd : decode r.desc = .error .malformed) : step s = .next (s.respond .malformed) := step_of_reject h hd
  refine ⟨fun hd => malformed (by rw [hd]; rfl), fun op n rest hop hd hl => malformed ?_,
    fun hd => malformed (by rw [hd]; rfl), fun l t hd hl => malformed ?_, fun rest hd hno => malformed ?_⟩
  · rw [hd] at hl ⊢
    exact decode_of_length hop hl
  · rw [hd, List.length_cons, List.length_cons] at hl
    rw [hd]
    exact decodeParsetok_of_length (by omega)
  · rw [hd]
    exact decodeParsecmd_of_not_entries hno

/-- Settles O4: the two layouts with `res` bits test them, as bounds of the bytes, before they build an instruction. -/
theorem reservedBitsRefused : Obligations.ReservedBitsRefused := by
  intro s r h
  have reserved (hd : decode r.desc = .error .reservedValue) : step s = .next (s.respond (.refused .reservedValue)) :=
    step_of_reject h hd
  refine ⟨fun b1 b2 b3 b4 b5 hd => ?_, fun l hl hd => ?_⟩
  · have hdec : decode r.desc = _ := (congrArg decode hd).trans (decodeEncode_five b1 b2 b3 b4 b5)
    split
    · rename_i hb
      exact ⟨_, hdec.trans (if_pos hb)⟩
    · rename_i hb
      exact reserved (hdec.trans (if_neg hb))
  · match l, hl with
    | [b1, b2, b3, b4, b5, b6, b7, b8, b9, b10, b11, b12, b13, b14, b15, b16, b17, b18], _ =>
      change if b4.toNat < 32 ∧ b17.toNat < 32 ∧ b18.toNat < 8 then _ else _
      rw [hd] at reserved ⊢
      split
      · rename_i hb
        exact decodeSetup_of_not_reserved hb
      · rename_i hb
        exact reserved (decodeSetup_of_reserved hb)

/-- Settles O10: `respond` is that record update. -/
theorem responseEndsRequest : Obligations.ResponseEndsRequest := fun _ _ => rfl

/-- Settles O11, by the branches of `step`. -/
theorem stepRunsDecodedRequest : Obligations.StepRunsDecodedRequest :=
  ⟨fun _ _ _ => step_of_decode, fun _ _ _ => step_of_reject, fun _ => step_of_no_request⟩

/-- Settles O9: the two fixed requests evaluate, and the entries of RSPEC.HE are its option and the three parts of its
token, one after the other. -/
theorem pseudoOperationsExpand : Obligations.PseudoOperationsExpand := by
  refine ⟨by decide, by decide, fun m s => ⟨rfl, ?_⟩⟩
  simp [pseudoHe, encode, opcodeOf, operandBytes, encodeArg, ascii, Nat.add_assoc, Nat.add_comm 1]

/-! ### Class rows -/

theorem decodeResponse_of_isAuto (cfg : Cfg) {w : Word} (h : isAuto w = true) :
    decodeResponse cfg w = .ok (.string autoString) := if_pos h

/-- Outside AUTO, RSPEC.DECODE gives the string of the word's encoding (R131). -/
theorem decodeResponse_of_not_isAuto (cfg : Cfg) {w : Word} (h : isAuto w = false) :
    decodeResponse cfg w = .ok (.string
      (if field w 24 2 = 0#2 then legacyString w
       else if field w 24 2 = 1#2 then htString cfg w
       else if field w 24 2 = 2#2 then vhtString cfg w
       else heString cfg w)) := by
  simp only [decodeResponse, h, Bool.false_eq_true, if_false]
  match field w 24 2 with
  | 0#2 | 1#2 | 2#2 | 3#2 => rfl

/-- Settles O8: a word row's word is AUTO or has the row's code, so RSPEC.DECODE gives the row's string; the octet and
command rows are their operations by definition. -/
theorem classRowsRunAsOperations : Obligations.ClassRowsRunAsOperations := by
  intro i s h
  cases i with
  | wordAuto txexp =>
    simp [exec, operationOf, execWordAuto, execRspecDecode, decodeResponse_of_isAuto, isAuto_autoWord]
  | wordLegacy hi lo =>
    simp [exec, operationOf, execWordLegacy, execRspecDecode, decodeResponse_of_not_isAuto, isAuto_wordOf_of_wellFormed h,
      wordOf_fields]
  | wordHt hi lo | wordVht hi lo | wordHe hi lo =>
    simp [exec, operationOf, execWordHt, execWordVht, execWordHe, execRspecDecode, decodeResponse_of_not_isAuto,
      isAuto_wordOf_of_code, wordOf_fields]
  | _ => rfl

end Sys2Proof.Machine
end

section

/-! What a step on a request ends in, for the statements about every step: one response, or a call that waits (R35, R298). -/

namespace Sys2Proof.Machine

/-! ### The ends of a request's step -/

/-- How a step leaves the request that was on the port of `s`. -/
inductive RequestEnd (s : State) : State → Prop where
  /-- a response, and nothing else changed -/
  | answers (x : Response) (isLocal : x.isLocal) : RequestEnd s (s.respond x)
  /-- OutBuf written, or drawn (R71), and a response -/
  | completes (x : Response) (kind : (∃ v, x = .ok v) ∨ ∃ c, x = .transport c) (m : Memory) (wf : s.outBuf.wf → m.wf)
      (calls : List PortCall) (as : List Bool) (ts : List TxAnswer) (k : Nat) :
      RequestEnd s (State.respond
        { s with outBuf := m, calls := calls, assocAnswers := as, txAnswers := ts, draws := k } x)
  /-- no response: a call is outstanding, with the frame of the request -/
  | waits (c : PendingCall)
      (frame : (∃ i, Sends s i c.payload) ∨ ∃ d, s.call = some d ∧ d.payload = c.payload)
      (calls : List PortCall) (as : List Bool) :
      RequestEnd s { s with call := some c, calls := calls, assocAnswers := as }

theorem requestEnd_of_awaitTx {s t : State} {P : List Byte} (hc : s.call = some ⟨.tx, P⟩) (h : s.awaitTx P = .next t) :
    RequestEnd s t := by
  obtain ⟨-, rfl⟩ | ⟨ts, -, -, rfl⟩ | ⟨ts, -, -, rfl⟩ := State.awaitTx_cases h
  · have := RequestEnd.waits (s := t) _ (.inr ⟨_, hc, rfl⟩) t.calls t.assocAnswers
    rwa [← hc] at this
  · exact .completes _ (.inl ⟨_, rfl⟩) _ (fun h => Memory.wf_writeBytes h 0 P) _ _ _ _
  · exact .completes _ (.inr ⟨_, rfl⟩) _ (fun h => Memory.wf_drawBytes h _ 0 P) _ _ _ _

theorem requestEnd_of_awaitAssoc {s t : State} {P : List Byte} (hc : s.call = some ⟨.assoc, P⟩)
    (h : s.awaitAssoc P = .next t) : RequestEnd s t := by
  obtain ⟨-, rfl⟩ | ⟨as, -, -, rfl⟩ | ⟨as, -, h⟩ := State.awaitAssoc_cases h
  · have := RequestEnd.waits (s := t) _ (.inr ⟨_, hc, rfl⟩) t.calls t.assocAnswers
    rwa [← hc] at this
  · exact .completes _ (.inr ⟨_, rfl⟩) _ (fun h => Memory.wf_drawBytes h _ 0 P) _ _ _ _
  · obtain ⟨-, rfl⟩ | ⟨ts, -, -, rfl⟩ | ⟨ts, -, -, rfl⟩ := State.awaitTx_cases h
    · exact .waits ⟨.tx, P⟩ (.inr ⟨_, hc, rfl⟩) _ _
    · exact .completes _ (.inl ⟨_, rfl⟩) _ (fun h => Memory.wf_writeBytes h 0 P) _ _ _ _
    · exact .completes _ (.inr ⟨_, rfl⟩) _ (fun h => Memory.wf_drawBytes h _ 0 P) _ _ _ _

theorem requestEnd_of_send {s t : State} {i : Instr} {P : List Byte} (hS : Sends s i P) (h : s.send P = .next t) :
    RequestEnd s t := by
  obtain ⟨-, rfl⟩ | ⟨as, -, -, rfl⟩ | ⟨as, -, -, rfl⟩ | ⟨as, ts, -, -, -, rfl⟩ | ⟨as, ts, -, -, -, rfl⟩ :=
    State.send_cases h
  · exact .waits ⟨.assoc, P⟩ (.inl ⟨i, hS⟩) _ _
  · exact .completes _ (.inr ⟨_, rfl⟩) _ (fun h => Memory.wf_drawBytes h _ 0 P) _ _ _ _
  · exact .waits ⟨.tx, P⟩ (.inl ⟨i, hS⟩) _ _
  · exact .completes _ (.inl ⟨_, rfl⟩) _ (fun h => Memory.wf_writeBytes h 0 P) _ _ _ _
  · exact .completes _ (.inr ⟨_, rfl⟩) _ (fun h => Memory.wf_drawBytes h _ 0 P) _ _ _ _

/-- Every step on a request is one of the three ends. -/
theorem requestEnd_of_step {s t : State} (hr : s.resetIn = false) (hq : s.request ≠ none) (h : step s = .next t) :
    RequestEnd s t := by
  obtain ⟨hr', -⟩ | ⟨-, hq', -⟩ | ⟨r, ⟨port, P⟩, -, -, hc, h⟩ | ⟨r, htk⟩ := step_cases h
  · rw [hr] at hr'; cases hr'
  · exact absurd hq' hq
  · obtain ⟨rfl, h⟩ | ⟨rfl, h⟩ := State.resume_eq_next h
    · exact requestEnd_of_awaitAssoc hc h
    · exact requestEnd_of_awaitTx hc h
  · obtain ⟨x, hx, rfl⟩ | ⟨p, -, -, rfl⟩ | ⟨i, P, -, hS, h⟩ := step_takes_cases htk h
    · exact .answers x hx
    · exact .completes _ (.inl ⟨_, rfl⟩) _ (fun h => Memory.wf_writeBytes h 0 _) _ _ _ _
    · exact requestEnd_of_send hS h

/-! ### What follows for every step -/

theorem ne_none_of_eq_some {s : State} {r : Request} (h : s.request = some r) : s.request ≠ none := by simp [h]

/-- Settles O12: two of the three ends respond, and the third leaves the call outstanding. -/
theorem oneResponsePerRequest : Obligations.OneResponsePerRequest := by
  intro s t r hr hq h
  cases requestEnd_of_step hr (ne_none_of_eq_some hq) h with
  | answers x _ => exact .inl ⟨rfl, rfl, by simp⟩
  | completes x _ m _ calls as ts k => exact .inl ⟨rfl, rfl, by simp⟩
  | waits c _ calls as => exact .inr ⟨hq, by simp, rfl, rfl⟩

/-- Settles O13: no end of a request changes CFG, and reset keeps it. -/
theorem configurationNeverChanges : Obligations.ConfigurationNeverChanges := by
  intro s t h
  cases hr : s.resetIn with
  | true =>
    rw [step_of_reset hr] at h
    cases h
    rw [State.applyReset_eq]
  | false =>
    by_cases hq : s.request = none
    · rw [step_of_no_request hr hq] at h
      cases h
      rfl
    · cases requestEnd_of_step hr hq h <;> rfl

/-- Settles O15: of the ends that respond, the one that touches more than the ports gives OK or TRANSPORT. -/
theorem errorResponsesLeaveNothing : Obligations.ErrorResponsesLeaveNothing := by
  intro s t r x hr hq h ht hx hok htr
  cases requestEnd_of_step hr (ne_none_of_eq_some hq) h with
  | answers y _ =>
    cases hx
    rfl
  | completes y kind =>
    cases hx
    obtain ⟨v, rfl⟩ | ⟨c, rfl⟩ := kind
    · exact absurd rfl hok
    · exact absurd rfl htr
  | waits c => exact absurd (hq.symm.trans ht) (by simp)

/-- Settles O18: a response without a send is local, which leaves these two out, and any other is OK or TRANSPORT. -/
theorem unreachableResponsesNeverGiven : Obligations.UnreachableResponsesNeverGiven := by
  intro s t r hr hq h ht
  cases requestEnd_of_step hr (ne_none_of_eq_some hq) h with
  | answers x isLocal =>
    refine ⟨?_, fun y => ?_⟩
    · rintro ⟨⟩
      exact isLocal rfl
    · rintro ⟨⟩
      exact isLocal
  | completes x kind =>
    obtain ⟨v, rfl⟩ | ⟨c, rfl⟩ := kind <;> simp
  | waits c => exact absurd (hq.symm.trans ht) (by simp)

/-- Settles O17: what is left of `exec_cases` when the operation neither writes a word nor sends. -/
theorem onlyThreeOperationsWriteOutBuf : Obligations.OnlyThreeOperationsWriteOutBuf := by
  intro i s hencode hsetup hteardown
  obtain ⟨x, hx, -⟩ | ⟨p, hp, -⟩ | ⟨P, hS, -⟩ := exec_cases i s
  · exact ⟨x, hx⟩
  · exact absurd hp (hencode p)
  · generalize operationOf i = j at hS hsetup hteardown
    cases hS with
    | setup cmd p => exact absurd rfl (hsetup cmd p)
    | teardown f => exact absurd rfl (hteardown f)

/-! ### The invariant -/

/-- The payload of a send is a frame of the block that fits the request's OutBuf. -/
theorem callFits_of_sends {s : State} {r : Request} {i : Instr} {c : PendingCall} (hq : s.request = some r)
    (h : Sends s i c.payload) : s.callFits c := by
  refine ⟨⟨r, hq, State.outCap_of_request hq ▸ h.exec_eq.2⟩, ?_⟩
  generalize c.payload = P at h
  cases h with
  | setup cmd p => exact .inl ⟨rfl, rfl⟩
  | teardown f => exact .inr ⟨rfl, rfl⟩

/-- Reset keeps the invariant: OutBuf is as it was or drawn, and no call is left. -/
theorem inv_applyReset {s : State} (hI : s.Inv) : s.applyReset.Inv where
  cfgLegal := by rw [State.applyReset_eq]; exact hI.cfgLegal
  outBufWf := by
    rw [State.applyReset_outBuf]
    obtain ⟨-, he⟩ | ⟨P, b, -, he⟩ := State.cutShort_outBuf s
    · rw [he]; exact hI.outBufWf
    · rw [he]; exact Memory.wf_drawBytes hI.outBufWf _ _ _
  callFits := by simp

/-- Each end of a request keeps the invariant. -/
theorem inv_of_requestEnd {s t : State} {r : Request} (hq : s.request = some r) (hI : s.Inv) (h : RequestEnd s t) :
    t.Inv := by
  cases h with
  | answers x => exact ⟨hI.cfgLegal, hI.outBufWf, by simp⟩
  | completes x _ m wf => exact ⟨hI.cfgLegal, wf hI.outBufWf, by simp⟩
  | waits c frame =>
    refine ⟨hI.cfgLegal, hI.outBufWf, ?_⟩
    rintro _ ⟨⟩
    obtain ⟨i, hS⟩ | ⟨d, hd, hp⟩ := frame
    · exact callFits_of_sends (s := s) hq hS
    · have := hI.callFits d hd
      rwa [State.callFits, hp] at this

/-- Settles O19, over the cases of a step: reset, nothing to do, and the ends of a request. -/
theorem stepKeepsInvariant : Obligations.StepKeepsInvariant := by
  intro s t hI h
  cases hr : s.resetIn with
  | true =>
    rw [step_of_reset hr] at h
    cases h
    exact inv_applyReset hI
  | false =>
    cases hq : s.request with
    | none =>
      rw [step_of_no_request hr hq] at h
      cases h
      exact hI
    | some r => exact inv_of_requestEnd hq hI (requestEnd_of_step hr (ne_none_of_eq_some hq) h)

theorem isAscii_ofAscii (l : List (BitVec 7)) : Str.isAscii (Config.ofAscii l) := by
  intro b hb
  obtain ⟨c, -, rfl⟩ := List.mem_map.1 hb
  have := c.isLt
  simp only [BitVec.toNat_setWidth]
  omega

/-- Settles O20: the built labels are 7-bit codes, OutBuf is empty, and no call is outstanding. -/
theorem invariantAtReset : Obligations.InvariantAtReset where
  cfgLegal := ⟨isAscii_ofAscii _, isAscii_ofAscii _, isAscii_ofAscii _, isAscii_ofAscii _, isAscii_ofAscii _,
    isAscii_ofAscii _, isAscii_ofAscii _, isAscii_ofAscii _⟩
  outBufWf := .nil
  callFits := fun _ h => by cases h

/-! ### Safety -/

/-- An instruction never faults and is never refused. -/
theorem exec_next (i : Instr) (s : State) : ∃ t, exec i s = .next t := by
  obtain ⟨x, hx, -⟩ | ⟨p, -, hroom, hx⟩ | ⟨P, hS, hx⟩ := exec_cases i s
  · exact ⟨_, hx⟩
  · exact ⟨_, hx.trans (State.commit_of_room _ (by simpa using hroom))⟩
  · obtain ⟨t, ht⟩ := State.awaitAssoc_next (s := s.callAssoc P) (P := P) hS.exec_eq.2
    exact ⟨t, hx.trans ht⟩

/-- A state that keeps the invariant always has a next state: an outstanding call has room for its payload. -/
theorem step_next_of_inv {s : State} (hI : s.Inv) : ∃ t, step s = .next t := by
  cases hr : s.resetIn with
  | true => exact ⟨_, step_of_reset hr⟩
  | false =>
    cases hq : s.request with
    | none => exact ⟨_, step_of_no_request hr hq⟩
    | some r =>
      cases hc : s.call with
      | none =>
        cases hd : decode r.desc with
        | error e => exact ⟨_, step_of_reject ⟨hr, hq, hc⟩ hd⟩
        | ok i =>
          rw [step_of_decode ⟨hr, hq, hc⟩ hd]
          exact exec_next i s
      | some c =>
        obtain ⟨⟨r', hq', hfit⟩, -⟩ := hI.callFits c hc
        rw [← State.outCap_of_request hq'] at hfit
        rw [step_of_call hr (ne_none_of_eq_some hq) hc, State.resume]
        cases c.port with
        | assoc => exact State.awaitAssoc_next hfit
        | tx => exact State.awaitTx_next hfit

/-- Settles O21, by induction on the number of steps: each has a next state, which keeps the invariant. -/
theorem runsNeverStop : Obligations.RunsNeverStop := by
  intro s hI n
  induction n generalizing s with
  | zero => exact ⟨s, rfl⟩
  | succ n ih =>
    obtain ⟨t, ht⟩ := step_next_of_inv hI
    rw [core_run_succ n ht]
    exact ih t (stepKeepsInvariant s t hI ht)

end Sys2Proof.Machine
end

section

/-! The gated send (R213, R298): its five ends as equations, the calls it makes, and what the answers decide. -/

namespace Sys2Proof.Machine

/-! ### The five ends of a send -/

section
variable {s : State} {P : List Byte} {as : List Bool} {ts : List TxAnswer}

theorem State.send_of_unanswered (ha : s.assocAnswers = []) : s.send P = .next (s.callAssoc P) := by
  simp [State.send, State.awaitAssoc, ha]

theorem State.send_of_not_associated (room : P.length ≤ s.outCap) (ha : s.assocAnswers = false :: as) :
    s.send P = .next (State.respond (State.drawOutBuf { s.callAssoc P with assocAnswers := as } P)
      (.transport .notAssociated)) := by
  simp only [State.send, State.awaitAssoc, State.callAssoc_assocAnswers, ha]
  exact State.transportError_of_room _ room

theorem State.send_of_tx_unanswered (ha : s.assocAnswers = true :: as) (ht : s.txAnswers = []) :
    s.send P = .next (State.callTx { s.callAssoc P with assocAnswers := as } P) := by
  simp [State.send, State.awaitAssoc, State.awaitTx, ha, ht]

theorem State.send_of_ok (room : P.length ≤ s.outCap) (ha : s.assocAnswers = true :: as)
    (ht : s.txAnswers = .ok :: ts) :
    s.send P = .next (State.respond { State.callTx { s.callAssoc P with assocAnswers := as } P with
      txAnswers := ts, outBuf := s.outBuf.writeBytes 0 P } (.ok (.payload P))) := by
  simp only [State.send, State.awaitAssoc, State.awaitTx, State.callAssoc_assocAnswers, State.callTx_txAnswers,
    State.callAssoc_txAnswers, ha, ht]
  exact State.commit_of_room _ room

theorem State.send_of_tx_failed (room : P.length ≤ s.outCap) (ha : s.assocAnswers = true :: as)
    (ht : s.txAnswers = .fail :: ts) :
    s.send P = .next (State.respond (State.drawOutBuf { State.callTx { s.callAssoc P with assocAnswers := as } P with
      txAnswers := ts } P) (.transport .txFailed)) := by
  simp only [State.send, State.awaitAssoc, State.awaitTx, State.callAssoc_assocAnswers, State.callTx_txAnswers,
    State.callAssoc_txAnswers, ha, ht]
  exact State.transportError_of_room _ room

/-- A row whose operation sends is that send, which its OutBuf has room for. -/
theorem Sends.exec_row {i : Instr} (h : Sends s (operationOf i) P) : exec i s = s.send P ∧ P.length ≤ s.outCap := by
  have hwf : i.wellFormed = true := by
    cases i with
    | rspecParsetok | rspecParsecmd | wordLegacy => cases h
    | _ => rfl
  rw [classRowsRunAsOperations i s hwf]
  exact h.exec_eq

theorem State.callAssoc_callTx_calls :
    (State.callTx { s.callAssoc P with assocAnswers := as } P).calls = s.calls ++ [.assoc, .tx P s.txCtx] := by
  simp [State.callTx, State.callAssoc, State.txCtx]

end

/-! ### What the answers decide -/

/-- Settles O54: with both answers yes, the send ends in the commit of its payload. -/
theorem acceptedSendsComplete : Obligations.AcceptedSendsComplete := by
  intro i P s as ts hS ha ht
  obtain ⟨hx, room⟩ := hS.exec_row
  refine ⟨_, hx.trans (State.send_of_ok room ha ht), writtenFrom_of_outBuf rfl, ?_⟩
  rw [← State.callAssoc_callTx_calls]
  rfl

/-- Settles O55: a send whose Assoc, or whose Tx, answers no ends in the draws of its payload and TRANSPORT. -/
theorem failedSendsReportTransport : Obligations.FailedSendsReportTransport := by
  intro i P s hS
  obtain ⟨hx, room⟩ := hS.exec_row
  refine ⟨fun as ha => ?_, fun as ts ha ht => ?_⟩
  · exact ⟨_, hx.trans (State.send_of_not_associated room ha), drawnFrom_of_outBuf rfl, rfl⟩
  · refine ⟨_, hx.trans (State.send_of_tx_failed room ha ht), drawnFrom_of_outBuf rfl, ?_⟩
    rw [← State.callAssoc_callTx_calls]
    rfl

/-- Settles O56: both calls wait on an empty queue, and a step without an answer resumes to the same wait. -/
theorem unansweredSendsHang : Obligations.UnansweredSendsHang := by
  refine ⟨fun i P s hS => ⟨fun ha => ?_, fun as ha ht => ?_⟩, fun s c hr hq hc ha ht => ?_⟩
  · exact hS.exec_row.1.trans (State.send_of_unanswered ha)
  · rw [hS.exec_row.1, State.send_of_tx_unanswered ha ht, ← State.callAssoc_callTx_calls]
    rfl
  · rw [step_of_call hr hq hc, State.resume]
    cases hp : c.port with
    | assoc => simp only [State.awaitAssoc, ha hp]
    | tx => simp only [State.awaitTx, ht hp]

/-- A request sends whatever the collaborators answer. -/
theorem Sends.with_answers {s : State} {i : Instr} {P : List Byte} (h : Sends s i P) (as : List Bool)
    (ts : List TxAnswer) : Sends { s with assocAnswers := as, txAnswers := ts } i P := by
  cases h with
  | setup cmd p valid room => exact .setup cmd p valid room
  | teardown f room => exact .teardown f room

/-- Settles O57: the state that waits is the send at that call, so that resuming it is going on with the send. -/
theorem lateAnswersChangeNothing : Obligations.LateAnswersChangeNothing := by
  intro i P s waiting r as ts htk hS
  have hx (as' : List Bool) (ts' : List TxAnswer) := (hS.with_answers as' ts').exec_eq.1
  obtain ⟨hr, hq, -⟩ := htk
  refine ⟨fun hw => ?_, fun hw => ?_⟩
  · rw [hx, State.send_of_unanswered rfl] at hw
    cases hw
    rw [hx]
    exact step_of_call (c := ⟨.assoc, P⟩) hr (ne_none_of_eq_some (s := s) hq) rfl
  · rw [hx, State.send_of_tx_unanswered rfl rfl] at hw
    cases hw
    rw [hx]
    exact step_of_call (c := ⟨.tx, P⟩) hr (ne_none_of_eq_some (s := s) hq) rfl

/-! ### The calls made -/

section
variable {s t : State} {P : List Byte}

theorem calls_of_awaitTx (h : s.awaitTx P = .next t) : t.calls = s.calls := by
  obtain ⟨-, rfl⟩ | ⟨ts, -, -, rfl⟩ | ⟨ts, -, -, rfl⟩ := State.awaitTx_cases h <;> rfl

theorem calls_of_awaitAssoc (h : s.awaitAssoc P = .next t) :
    t.calls = s.calls ∨ t.calls = s.calls ++ [.tx P s.txCtx] := by
  obtain ⟨-, rfl⟩ | ⟨as, -, -, rfl⟩ | ⟨as, -, h⟩ := State.awaitAssoc_cases h
  · exact .inl rfl
  · exact .inl rfl
  · exact .inr (calls_of_awaitTx h)

theorem calls_of_send (h : s.send P = .next t) :
    t.calls = s.calls ++ [.assoc] ∨ t.calls = s.calls ++ [.assoc, .tx P s.txCtx] := by
  obtain hc | hc := calls_of_awaitAssoc (s := s.callAssoc P) h
  · exact .inl hc
  · exact .inr (by simpa using hc)

end

/-- Settles O16: only a send makes calls, Assoc and then Tx, and a resumed one makes those that are left. -/
theorem portCallOrder : Obligations.PortCallOrder := by
  refine ⟨fun s t r htk h => ?_, fun s t r P hr hq h => ⟨fun hc => ?_, fun hc => ?_⟩⟩
  · obtain ⟨x, -, rfl⟩ | ⟨p, -, -, rfl⟩ | ⟨i, P, hd, hS, h⟩ := step_takes_cases htk h
    · exact .inl rfl
    · exact .inl rfl
    · rw [← State.txCtx_of_request htk.2.1]
      exact .inr ⟨i, P, hd, hS, calls_of_send h⟩
  · rw [step_of_call hr (ne_none_of_eq_some hq) hc] at h
    rw [← State.txCtx_of_request hq]
    exact calls_of_awaitAssoc h
  · rw [step_of_call hr (ne_none_of_eq_some hq) hc] at h
    exact calls_of_awaitTx h

/-! ### The payloads -/

/-- Settles O51: the payload's fields, with the flow id that NEGO carries. -/
theorem setupPayloadLayout : Obligations.SetupPayloadLayout := by
  intro cfg cmd p valid
  exact setupImage_of_valid cfg p valid

theorem setupImage_eq_ok {cfg : Cfg} {cmd : Byte} {p : TwtParams} {P : List Byte} (h : setupImage cfg cmd p = .ok P) :
    P = setupPayload cfg cmd p (carriedFlowId p) := by
  by_cases valid : cmd.toNat ≤ 7
  · rw [setupImage_of_valid cfg p valid] at h
    exact (Except.ok.inj h).symm
  · rw [setupImage_of_invalid cfg p (not_le.1 valid)] at h
    cases h

/-- Settles O53: byte 5 is the octet, and the flow id reads only its negotiation type. -/
theorem controlOctetCopiedVerbatim : Obligations.ControlOctetCopiedVerbatim := by
  intro cfg cmd ctrl' p P P' h h' hn
  rw [setupImage_eq_ok h, setupImage_eq_ok h']
  have hfid : carriedFlowId { p with ctrl := ctrl' } = carriedFlowId p := by simp only [carriedFlowId, hn]
  rw [hfid]
  exact ⟨rfl, rfl⟩

/-- Settles O58: the definition of the payload. -/
theorem teardownPayloadVerbatim : Obligations.TeardownPayloadVerbatim := fun _ _ => rfl

end Sys2Proof.Machine
end

section

/-! Independence: of a request from everything but its inputs (R43), and of requesters from each other (R75). -/

namespace Sys2Proof.Machine

/-! ### What an operation reads -/

/-- CFG and the capacity alone decide what an operation does: one response, one commit, or one send, whatever the rest of
the state is. -/
theorem exec_reads_cfg_and_outCap {i : Instr} (hi : operationOf i = i) (cfg : Cfg) (cap : Nat) :
    (∃ x, ∀ s : State, s.cfg = cfg → s.outCap = cap → exec i s = .next (s.respond x)) ∨
    (∃ P v, ∀ s : State, s.cfg = cfg → s.outCap = cap → exec i s = s.commit P v) ∨
    ∃ P, P.length ≤ cap ∧ ∀ s : State, s.cfg = cfg → s.outCap = cap → exec i s = s.send P := by
  cases i with
  | rspecEncode p =>
    by_cases hp : pre p = true
    · by_cases hroom : 4 ≤ cap
      · refine .inr (.inl ⟨wire cfg (pack cfg p), .word (pack cfg p), ?_⟩)
        rintro s rfl rfl
        simp only [exec, execRspecEncode, hp, hroom, if_true]
      · refine .inl ⟨.refused .buffer, ?_⟩
        rintro s rfl rfl
        simp [exec, execRspecEncode, hp, hroom]
    · exact .inl ⟨.refused .precondition, fun s _ _ => by simp [exec, execRspecEncode, hp]⟩
  | rspecDecode w =>
    refine .inl ⟨decodeResponse cfg w, ?_⟩
    rintro s rfl -
    rfl
  | rspecParsetok t => exact .inl ⟨tokResponse (ptok t), fun _ _ _ => rfl⟩
  | rspecParsecmd args =>
    refine .inl ⟨cmdResponse cfg args, ?_⟩
    rintro s rfl -
    rfl
  | twtCtrlmap o => exact .inl ⟨ctrlResponse o, fun _ _ _ => rfl⟩
  | twtSetup cmd p =>
    by_cases valid : cmd.toNat ≤ 7
    · by_cases room : 20 ≤ cap
      · refine .inr (.inr ⟨setupPayload cfg cmd p (carriedFlowId p), room, ?_⟩)
        rintro s rfl rfl
        exact setupRequest_of_room valid room
      · refine .inl ⟨.refused .buffer, ?_⟩
        rintro s rfl rfl
        exact setupRequest_of_no_room p valid room
    · exact .inl ⟨.validation .setupCmd, fun s _ _ => setupRequest_of_invalid p s (not_le.1 valid)⟩
  | twtTdmap f => exact .inl ⟨tdResponse f, fun _ _ _ => rfl⟩
  | twtTeardown f =>
    by_cases room : 3 ≤ cap
    · refine .inr (.inr ⟨teardownPayload cfg f, room, ?_⟩)
      rintro s rfl rfl
      exact teardownRequest_of_room room
    · obtain ⟨d, hd⟩ := tdOf_isSome f
      refine .inl ⟨.refused .buffer, ?_⟩
      rintro s rfl rfl
      simp [exec, execTwtTeardown, teardownRequest, hd, room]
  | twtProfile pr bd =>
    cases hx : profileSelection pr bd with
    | none => exact .inl ⟨.refused .reservedValue, fun _ _ _ => by simp [exec, execTwtProfile, hx]⟩
    | some x => exact .inl ⟨.ok (.selection x), fun _ _ _ => by simp [exec, execTwtProfile, hx]⟩
  | _ => cases hi

/-! ### Two states with the same inputs -/

/-- The states that two steps leave agree in all that R43 speaks of. -/
structure SameOutcome (s s' t t' : State) : Prop where
  request : t.request = t'.request
  call : t.call = t'.call
  response : t.request = none → t.response = t'.response
  assocAnswers : t.assocAnswers = t'.assocAnswers
  txAnswers : t.txAnswers = t'.txAnswers
  calls : ∃ l, t.calls = s.calls ++ l ∧ t'.calls = s'.calls ++ l
  outBuf : t.request = none → (∀ c, t.response ≠ some (.transport c)) → ∃ P, writtenFrom s t P ∧ writtenFrom s' t' P

section
variable {s s' : State}

theorem writtenFrom_nil {t : State} (h : t.outBuf = s.outBuf) : writtenFrom s t [] := fun a => by simp [h]

theorem sameOutcome_respond (ha : s.assocAnswers = s'.assocAnswers) (ht : s.txAnswers = s'.txAnswers) (x : Response) :
    SameOutcome s s' (s.respond x) (s'.respond x) :=
  ⟨rfl, rfl, fun _ => rfl, ha, ht, ⟨[], by simp⟩, fun _ _ => ⟨[], writtenFrom_nil rfl, writtenFrom_nil rfl⟩⟩

theorem sameOutcome_commit {t t' : State} {P : List Byte} {v : Result} (ha : s.assocAnswers = s'.assocAnswers)
    (ht : s.txAnswers = s'.txAnswers) (h : s.commit P v = .next t) (h' : s'.commit P v = .next t') :
    SameOutcome s s' t t' := by
  obtain ⟨-, rfl⟩ := State.commit_eq_next h
  obtain ⟨-, rfl⟩ := State.commit_eq_next h'
  exact ⟨rfl, rfl, fun _ => rfl, ha, ht, ⟨[], by simp⟩,
    fun _ _ => ⟨P, writtenFrom_of_outBuf rfl, writtenFrom_of_outBuf rfl⟩⟩

/-- The same answers bring two sends of one payload to the same end. -/
theorem sameOutcome_send {t t' : State} {P : List Byte} (hq : s.request = s'.request) (hq' : s.request ≠ none)
    (room : P.length ≤ s.outCap) (room' : P.length ≤ s'.outCap)
    (ha : s.assocAnswers = s'.assocAnswers) (ht : s.txAnswers = s'.txAnswers)
    (h : s.send P = .next t) (h' : s'.send P = .next t') : SameOutcome s s' t t' := by
  have hctx : s.txCtx = s'.txCtx := by simp only [State.txCtx, hq]
  rcases hA : s.assocAnswers with _ | ⟨_ | _, as⟩
  · rw [State.send_of_unanswered hA] at h
    rw [State.send_of_unanswered (ha ▸ hA)] at h'
    cases h
    cases h'
    exact ⟨hq, rfl, fun hn => absurd hn hq', ha, ht, ⟨[.assoc], rfl, rfl⟩, fun hn => absurd hn hq'⟩
  · rw [State.send_of_not_associated room hA] at h
    rw [State.send_of_not_associated room' (ha ▸ hA)] at h'
    cases h
    cases h'
    exact ⟨rfl, rfl, fun _ => rfl, rfl, ht, ⟨[.assoc], rfl, rfl⟩, fun _ hc => absurd rfl (hc _)⟩
  · have calls (x : State) : (State.callTx { x.callAssoc P with assocAnswers := as } P).calls = _ :=
      State.callAssoc_callTx_calls
    rcases hT : s.txAnswers with _ | ⟨_ | _, ts⟩
    · rw [State.send_of_tx_unanswered hA hT] at h
      rw [State.send_of_tx_unanswered (ha ▸ hA) (ht ▸ hT)] at h'
      cases h
      cases h'
      exact ⟨hq, rfl, fun hn => absurd hn hq', rfl, ht, ⟨_, calls s, hctx ▸ calls s'⟩, fun hn => absurd hn hq'⟩
    · rw [State.send_of_ok room hA hT] at h
      rw [State.send_of_ok room' (ha ▸ hA) (ht ▸ hT)] at h'
      cases h
      cases h'
      exact ⟨rfl, rfl, fun _ => rfl, rfl, rfl, ⟨_, calls s, hctx ▸ calls s'⟩,
        fun _ _ => ⟨P, writtenFrom_of_outBuf rfl, writtenFrom_of_outBuf rfl⟩⟩
    · rw [State.send_of_tx_failed room hA hT] at h
      rw [State.send_of_tx_failed room' (ha ▸ hA) (ht ▸ hT)] at h'
      cases h
      cases h'
      exact ⟨rfl, rfl, fun _ => rfl, rfl, rfl, ⟨_, calls s, hctx ▸ calls s'⟩, fun _ hc => absurd rfl (hc _)⟩

end

/-- Steps on one request with the same inputs have the same outcome. -/
theorem sameOutcome_of_takes {s s' t t' : State} {r : Request} (h : s.takes r) (h' : s'.takes r) (hcfg : s.cfg = s'.cfg)
    (ha : s.assocAnswers = s'.assocAnswers) (ht : s.txAnswers = s'.txAnswers) (hs : step s = .next t)
    (hs' : step s' = .next t') : SameOutcome s s' t t' := by
  cases hd : decode r.desc with
  | error e =>
    rw [step_of_reject h hd] at hs
    rw [step_of_reject h' hd] at hs'
    cases hs
    cases hs'
    exact sameOutcome_respond ha ht _
  | ok i =>
    rw [step_of_decode h hd] at hs
    rw [step_of_decode h' hd] at hs'
    have hcap : s.outCap = r.outCap := State.outCap_of_request h.2.1
    have hcap' : s'.outCap = r.outCap := State.outCap_of_request h'.2.1
    obtain ⟨x, hx⟩ | ⟨P, v, hx⟩ | ⟨P, room, hx⟩ :=
      exec_reads_cfg_and_outCap (operationOf_of_decode hd) s.cfg r.outCap
    · rw [hx s rfl hcap] at hs
      rw [hx s' hcfg.symm hcap'] at hs'
      cases hs
      cases hs'
      exact sameOutcome_respond ha ht x
    · rw [hx s rfl hcap] at hs
      rw [hx s' hcfg.symm hcap'] at hs'
      exact sameOutcome_commit ha ht hs hs'
    · rw [hx s rfl hcap] at hs
      rw [hx s' hcfg.symm hcap'] at hs'
      exact sameOutcome_send (h.2.1.trans h'.2.1.symm) (ne_none_of_eq_some h.2.1) (hcap ▸ room) (hcap' ▸ room) ha ht hs hs'

/-- Settles O14: the decoder reads the descriptor alone and an operation only CFG and the capacity, so both steps are the
same response, commit or send, and the answers bring a send to the same end. -/
theorem responseDependsOnlyOnInputs : Obligations.ResponseDependsOnlyOnInputs := by
  intro s s' t t' r h h' hcfg ha ht hs hs'
  obtain ⟨hrequest, hcall, hresponse, hassoc, htx, hcalls, hout⟩ := sameOutcome_of_takes h h' hcfg ha ht hs hs'
  exact ⟨hrequest, hcall, hresponse, hassoc, htx, hcalls, hout⟩

/-! ### Lanes -/

/-- A move of lane `k` is a step of that lane, and leaves every other as it was. -/
theorem Fleet.stepLane_eq_next {F G : Fleet} {k : Nat} (h : F.stepLane k = .next G) :
    G.lanes.length = F.lanes.length ∧ ∀ j s, F.lanes[j]? = some s →
      ∃ t, G.lanes[j]? = some t ∧ (if k = j then step s = .next t else t = s) := by
  unfold Fleet.stepLane at h
  split at h
  · rename_i hk
    cases h
    refine ⟨rfl, fun j s hs => ⟨s, hs, ?_⟩⟩
    rw [if_neg (by rintro rfl; rw [hk] at hs; cases hs)]
  · rename_i u hk
    split at h
    · rename_i v hv
      cases h
      refine ⟨List.length_set, fun j s hs => ?_⟩
      by_cases hj : k = j
      · subst hj
        obtain rfl : u = s := Option.some.inj (hk.symm.trans hs)
        exact ⟨v, by rw [List.getElem?_set_self (List.getElem?_eq_some_iff.1 hs).1], by rwa [if_pos rfl]⟩
      · exact ⟨s, by rw [List.getElem?_set_ne hj, hs], by rw [if_neg hj]⟩
    · cases h
    · cases h

/-- Settles O22, by induction on the schedule: its first move is the first step of one lane's own run. -/
theorem interleavingsAgree : Obligations.InterleavingsAgree := by
  intro F G schedule h
  induction schedule generalizing F with
  | nil =>
    cases h
    exact ⟨rfl, fun j s hs => ⟨s, hs, rfl⟩⟩
  | cons k ks ih =>
    rw [Fleet.run] at h
    split at h
    · rename_i F' hk
      obtain ⟨hlen, hmove⟩ := Fleet.stepLane_eq_next hk
      obtain ⟨hlen', hrest⟩ := ih F' h
      refine ⟨hlen'.trans hlen, fun j s hs => ?_⟩
      obtain ⟨u, hu, hstep⟩ := hmove j s hs
      obtain ⟨t, ht, hrun⟩ := hrest j u hu
      refine ⟨t, ht, ?_⟩
      by_cases hj : k = j
      · subst hj
        rw [if_pos rfl] at hstep
        rw [List.count_cons_self, core_run_succ _ hstep]
        exact hrun
      · rw [if_neg hj] at hstep
        subst hstep
        rw [List.count_cons_of_ne hj]
        exact hrun
    · cases h
    · cases h

end Sys2Proof.Machine
end

section

/-! RSPEC.ENCODE's three answers (R122, R123, R61), reset (R290, R291), and what a chip may do (R162, R264). -/

namespace Sys2Proof.Machine

/-! ### RSPEC.ENCODE and the capacity checks -/

section
variable {p : RsParams} {s : State}

theorem exec_encode_of_not_pre (h : ¬ p.meetsPre) :
    exec (.rspecEncode p) s = .next (s.respond (.refused .precondition)) := by
  simp [exec, execRspecEncode, mt (pre_iff_meetsPre p).1 h]

theorem exec_encode_of_no_room (h : p.meetsPre) (hroom : s.outCap < 4) :
    exec (.rspecEncode p) s = .next (s.respond (.refused .buffer)) := by
  simp [exec, execRspecEncode, (pre_iff_meetsPre p).2 h, not_le.2 hroom]

theorem exec_encode_of_room (h : p.meetsPre) (hroom : 4 ≤ s.outCap) :
    exec (.rspecEncode p) s = .next (State.respond { s with outBuf := s.outBuf.writeBytes 0 (wire s.cfg (pack s.cfg p)) }
      (.ok (.word (pack s.cfg p)))) := by
  simp only [exec, execRspecEncode, (pre_iff_meetsPre p).2 h, hroom, if_true]
  exact State.commit_of_room _ (by simpa using hroom)

end

theorem teardownRequest_of_no_room {f : Byte} {s : State} (h : s.outCap < 3) :
    teardownRequest f s = .next (s.respond (.refused .buffer)) := by
  obtain ⟨d, hd⟩ := tdOf_isSome f
  simp [teardownRequest, hd, not_le.2 h]

/-- A chip may do anything with a request that the model refuses (R264). -/
theorem chipStep_of_refused {s t : State} {r : Request} {i : Instr} {c : RefusedCause} (h : s.takes r)
    (hd : decode r.desc = .ok i) (hx : exec i s = .next (s.respond (.refused c))) : ChipStep s t :=
  .refused (State.refuses_of_next h.1 (ne_none_of_eq_some h.2.1) ((step_of_decode h hd).trans hx) rfl rfl)

/-- Settles O27: the precondition is tested before the capacity. -/
theorem encodePreconditionRefused : Obligations.EncodePreconditionRefused :=
  fun _ _ h => ⟨exec_encode_of_not_pre h, fun _ _ htk hd => chipStep_of_refused htk hd (exec_encode_of_not_pre h)⟩

/-- Settles O28: each of the three operations tests its capacity after its own checks. -/
theorem shortBuffersRefused : Obligations.ShortBuffersRefused := by
  refine ⟨fun p s hp hroom => ?_, fun cmd p s valid hroom => ?_, fun f s hroom => ?_⟩
  · have hx := exec_encode_of_no_room hp hroom
    exact ⟨hx, fun r t htk hd => chipStep_of_refused htk hd hx⟩
  · have hx : exec (.twtSetup cmd p) s = _ := setupRequest_of_no_room p valid (not_le.2 hroom)
    exact ⟨hx, fun r t htk hd => chipStep_of_refused htk hd hx⟩
  · have hx : exec (.twtTeardown f) s = _ := teardownRequest_of_no_room hroom
    exact ⟨hx, fun r t htk hd => chipStep_of_refused htk hd hx⟩

theorem wire_of_le {cfg : Cfg} (h : cfg.wireOrder = .le) (w : Word) :
    wire cfg w = [field w 0 8, field w 8 8, field w 16 8, field w 24 8] := by rw [wire, h]; rfl

theorem wire_of_be {cfg : Cfg} (h : cfg.wireOrder = .be) (w : Word) :
    wire cfg w = [field w 24 8, field w 16 8, field w 8 8, field w 0 8] := by rw [wire, h]; rfl

/-- Settles O26: the commit writes the wire bytes, which are the word's fields in either order. -/
theorem encodeCompletes : Obligations.EncodeCompletes := by
  intro p s hp hroom
  have written : ∀ P, wire s.cfg (pack s.cfg p) = P → writtenFrom s (State.respond
      { s with outBuf := s.outBuf.writeBytes 0 (wire s.cfg (pack s.cfg p)) } (.ok (.word (pack s.cfg p)))) P := by
    rintro P rfl
    exact writtenFrom_of_outBuf rfl
  refine ⟨_, _, exec_encode_of_room hp hroom, rfl, rfl, written _ ?_, rfl⟩
  cases ho : s.cfg.wireOrder with
  | le => exact wire_of_le ho _
  | be => exact wire_of_be ho _

/-! ### Reset -/

section
variable {s : State} {P : List Byte} {isFrame : Bool}

theorem drawnFrom_applyReset (h : s.inFlightImage = some (P, isFrame)) : drawnFrom s s.applyReset P := by
  obtain ⟨hn, -⟩ | ⟨Q, b, hQ, he⟩ := State.cutShort_outBuf s
  · rw [h] at hn
    cases hn
  · cases h.symm.trans hQ
    exact drawnFrom_of_outBuf he

/-- Without bytes in flight, reset clears the ports alone. -/
theorem applyReset_of_no_image (h : s.inFlightImage = none) :
    s.applyReset = { s with request := none, response := none, call := none, resetIn := false } := by
  rw [State.applyReset, State.cutShort, h]

/-- A write in flight makes no call. -/
theorem calls_applyReset_of_write (h : s.inFlightImage = some (P, false)) : s.applyReset.calls = s.calls := by
  rw [State.applyReset_calls, State.cutShort, h]
  rfl

theorem inFlightImage_of_call {c : PendingCall} (h : s.call = some c) : s.inFlightImage = some (c.payload, true) := by
  rw [State.inFlightImage, h]

theorem inFlightImage_of_idle (hq : s.request = none) (hc : s.call = none) : s.inFlightImage = none := by
  rw [State.inFlightImage, hc, hq]
  rfl

end

/-- Settles O23: reset leaves what `cutShort` does, and the bytes in flight are those of a write that would be made, of a
send, or none. -/
theorem resetClearsPorts : Obligations.ResetClearsPorts := by
  intro s hr
  have hcfg : s.applyReset.cfg = s.cfg := by rw [State.applyReset_eq]
  have hassoc : s.applyReset.assocAnswers = s.assocAnswers := by rw [State.applyReset_eq]
  have htx : s.applyReset.txAnswers = s.txAnswers := by rw [State.applyReset_eq]
  have none_changed (h : s.inFlightImage = none) :
      s.applyReset.outBuf = s.outBuf ∧ s.applyReset.calls = s.calls := by
    rw [applyReset_of_no_image h]
    exact ⟨rfl, rfl⟩
  refine ⟨_, step_of_reset hr, hcfg, rfl, rfl, rfl, rfl, hassoc, htx, fun hq hc => none_changed (inFlightImage_of_idle hq hc),
    fun P isFrame h => ⟨drawnFrom_applyReset h, ?_⟩, none_changed, fun r hq hc => ⟨fun p hd hp hroom => ?_, fun he hs => ?_⟩,
    fun hR u => .refused hR⟩
  · rintro rfl
    exact calls_applyReset_of_write h
  · have himage := State.inFlightImage_of_encode hq hc hd hp hroom
    refine ⟨_, wire s.cfg (pack s.cfg p), rfl, ?_, himage, drawnFrom_applyReset himage, calls_applyReset_of_write himage⟩
    cases ho : s.cfg.wireOrder with
    | le => exact wire_of_le ho _
    | be => exact wire_of_be ho _
  · have himage := State.inFlightImage_eq_none hq hc he hs
    exact ⟨himage, none_changed himage⟩

/-! ### The calls that a frame in flight may leave (R291) -/

/-- The calls that R291 leaves open for the bytes in flight of `s`: those made before, and for a frame those of a send
that was made or not. -/
def State.OpenCalls (s : State) (P : List Byte) (isFrame : Bool) (l : List PortCall) : Prop :=
  l = s.calls ∨ isFrame = true ∧ (l = s.callsIfSent P ∨ ∃ assocMade, l = s.callsIfNotSent assocMade)

section
variable {s : State} {P : List Byte}

theorem openCalls_applyReset {isFrame : Bool} (h : s.inFlightImage = some (P, isFrame)) :
    s.OpenCalls P isFrame s.applyReset.calls := by
  cases isFrame with
  | false => exact .inl (calls_applyReset_of_write h)
  | true => exact .inr ⟨rfl, State.cutShort_calls h⟩

theorem openCalls_of_write {l : List PortCall} : s.OpenCalls P false l ↔ l ∈ [s.calls] := by simp [State.OpenCalls]

/-- A frame not yet begun: no call, Assoc alone, or both. -/
theorem openCalls_of_not_begun (hc : s.call = none) {l : List PortCall} :
    s.OpenCalls P true l ↔ l ∈ [s.calls, s.calls ++ [.assoc], s.calls ++ [.assoc, .tx P s.txCtx]] := by
  simp only [State.OpenCalls, State.callsIfSent, State.callsIfNotSent, hc, Bool.exists_bool, List.mem_cons,
    List.not_mem_nil, or_false, true_and, if_true, Bool.false_eq_true, if_false]
  tauto

/-- A frame whose Assoc call is outstanding: the Tx call follows or does not. -/
theorem openCalls_of_assoc {Q : List Byte} (hc : s.call = some ⟨.assoc, Q⟩) {l : List PortCall} :
    s.OpenCalls P true l ↔ l ∈ [s.calls, s.calls ++ [.tx P s.txCtx]] := by
  simp only [State.OpenCalls, State.callsIfSent, State.callsIfNotSent, hc, exists_const, List.mem_cons,
    List.not_mem_nil, or_false, true_and]
  tauto

/-- A frame whose Tx call is outstanding: the call stays or does not. -/
theorem openCalls_of_tx {Q : List Byte} (hc : s.call = some ⟨.tx, Q⟩) {l : List PortCall} :
    s.OpenCalls P true l ↔ l ∈ [s.calls, s.calls.dropLast] := by
  simp only [State.OpenCalls, State.callsIfSent, State.callsIfNotSent, hc, exists_const, List.mem_cons,
    List.not_mem_nil, or_false, true_and]
  tauto

end

/-- Settles O24: the frame in flight, and its open calls at each of the three positions of a send. -/
theorem resetDrawsTheSend : Obligations.ResetDrawsTheSend := by
  refine ⟨fun s P ctx earlier hr hc hcalls => ?_, fun s P hr hc => ?_, fun s P r i hr hq hc hd hS => ?_⟩
  · have himage := inFlightImage_of_call hc
    have hopen := (openCalls_of_tx hc).1 (openCalls_applyReset himage)
    exact ⟨_, step_of_reset hr, drawnFrom_applyReset himage, by simpa [hcalls] using hopen⟩
  · have himage := inFlightImage_of_call hc
    have hopen := (openCalls_of_assoc hc).1 (openCalls_applyReset himage)
    exact ⟨_, step_of_reset hr, drawnFrom_applyReset himage, by simpa using hopen⟩
  · have himage := State.inFlightImage_of_sends hq hc hd hS
    have hopen := (openCalls_of_not_begun hc).1 (openCalls_applyReset himage)
    rw [State.txCtx_of_request hq] at hopen
    exact ⟨himage, _, step_of_reset hr, drawnFrom_applyReset himage, by simpa using hopen⟩

/-! ### What a chip may do -/

theorem isToken_iff_code (c : ValidationCause) : c.IsToken ↔ 0x10 ≤ c.code.toNat ∧ c.code.toNat ≤ 0x15 := by
  cases c <;> decide

section
variable {s t u : State}

/-- R162: where the model names one fault of a token, a chip names any. -/
theorem chipStep_iff_of_token {c : ValidationCause} (hr : s.resetIn = false) (hq : s.request ≠ none) (hc : c.IsToken)
    (hs : step s = .next (s.respond (.validation c))) :
    ChipStep s u ↔ ∃ c' : ValidationCause, c'.IsToken ∧ u = s.respond (.validation c') := by
  constructor
  · rintro (made | refuses | stops | ⟨c₁, c₂, -, other, -, -, rest⟩ | ⟨t', P, c₃, -, made, -, failed, -⟩ | ⟨-, -, reset, -⟩)
    · cases hs.symm.trans made
      exact ⟨c, hc, rfl⟩
    · exact absurd refuses (State.not_refuses_of_next hr hs (.inr (by simp)))
    · exact absurd hs (stops _)
    · exact ⟨c₂, other, rest⟩
    · cases hs.symm.trans made
      cases failed
    · rw [hr] at reset
      cases reset
  · rintro ⟨c', hc', rfl⟩
    exact .tokenFault c c' hc hc' hq hs rfl

/-- R71: where the model ends a send TRANSPORT, a chip draws its payload otherwise. -/
theorem chipStep_iff_of_transport {c : TransportCause} (hr : s.resetIn = false) (hq : s.request ≠ none)
    (hs : step s = .next t) (ht : t.request = none) (hc : t.response = some (.transport c)) :
    ∃ P, s.inFlightImage = some (P, true) ∧
      (ChipStep s u ↔ (s.outBuf.wf → u.outBuf.wf) ∧ drawnFrom s u P ∧ u = { t with outBuf := u.outBuf, draws := u.draws }) := by
  obtain ⟨P, k, himage, hout⟩ := step_transport hr hq hs ht hc
  refine ⟨P, himage, ?_, fun ⟨wf, drawn, rest⟩ => .sendDraws t P c hq hs ht hc himage wf drawn rest⟩
  rintro (made | refuses | stops | ⟨c₁, c₂, -, -, -, made, -⟩ | ⟨t', Q, c₃, -, made, -, -, image, wf, drawn, rest⟩ |
    ⟨-, -, reset, -⟩)
  · cases hs.symm.trans made
    exact ⟨fun h => hout ▸ Memory.wf_drawBytes h k 0 P, drawnFrom_of_outBuf hout, rfl⟩
  · exact absurd refuses (State.not_refuses_of_next hr hs (.inr (by simp [hc])))
  · exact absurd hs (stops _)
  · cases hs.symm.trans made
    cases hc
  · cases hs.symm.trans made
    cases himage.symm.trans image
    exact ⟨wf, drawn, rest⟩
  · rw [hr] at reset
    cases reset

/-- At a reset that cuts no refused request, a chip does what the model does, or draws the bytes and the calls in flight
otherwise. -/
theorem chipStep_reset_cases (hr : s.resetIn = true) (hn : ¬ s.Refuses) (h : ChipStep s u) :
    u = s.applyReset ∨ ∃ P isFrame, s.inFlightImage = some (P, isFrame) ∧ (s.outBuf.wf → u.outBuf.wf) ∧
      drawnFrom s u P ∧ s.OpenCalls P isFrame u.calls ∧
      u = { s.applyReset with outBuf := u.outBuf, calls := u.calls, draws := u.draws } := by
  have hs := step_of_reset hr
  obtain made | refuses | stops | ⟨c₁, c₂, -, -, -, made, -⟩ | ⟨t', Q, c₃, -, made, -, failed, -⟩ |
    ⟨P, isFrame, -, image, wf, drawn, made, rest⟩ := h
  · cases hs.symm.trans made
    exact .inl rfl
  · exact absurd refuses hn
  · exact absurd hs (stops _)
  · cases congrArg State.response (Host.Outcome.next.inj (hs.symm.trans made))
  · cases hs.symm.trans made
    cases failed
  · exact .inr ⟨P, isFrame, image, wf, drawn, made, rest⟩

/-- R290: with nothing in flight, reset clears the ports of a chip alone. -/
theorem chipStep_iff_of_reset_no_image (hr : s.resetIn = true) (hn : ¬ s.Refuses) (h : s.inFlightImage = none) :
    ChipStep s u ↔ u = { s with request := none, response := none, call := none, resetIn := false } := by
  rw [← applyReset_of_no_image h]
  constructor
  · intro hu
    obtain rfl | ⟨P, b, himage, -⟩ := chipStep_reset_cases hr hn hu
    · rfl
    · cases h.symm.trans himage
  · rintro rfl
    exact .asModel (step_of_reset hr)

/-- R291: with bytes in flight, reset leaves a chip any draw of them, and any of the open calls. -/
theorem chipStep_iff_of_reset_image {P : List Byte} {isFrame : Bool} (hr : s.resetIn = true) (hn : ¬ s.Refuses)
    (h : s.inFlightImage = some (P, isFrame)) :
    ChipStep s u ↔ (s.outBuf.wf → u.outBuf.wf) ∧ drawnFrom s u P ∧ s.OpenCalls P isFrame u.calls ∧
      u = { s with request := none, response := none, call := none, resetIn := false,
                   outBuf := u.outBuf, calls := u.calls, draws := u.draws } := by
  have hframe : { s.applyReset with outBuf := u.outBuf, calls := u.calls, draws := u.draws } =
      { s with request := none, response := none, call := none, resetIn := false,
               outBuf := u.outBuf, calls := u.calls, draws := u.draws } := by rw [State.applyReset_eq]
  rw [← hframe]
  constructor
  · intro hu
    obtain rfl | ⟨Q, b, himage, hrest⟩ := chipStep_reset_cases hr hn hu
    · refine ⟨fun hwf => ?_, drawnFrom_applyReset h, openCalls_applyReset h, rfl⟩
      obtain ⟨-, he⟩ | ⟨Q, b, -, he⟩ := State.cutShort_outBuf s
      · rwa [State.applyReset_outBuf, he]
      · rw [State.applyReset_outBuf, he]
        exact Memory.wf_drawBytes hwf _ _ _
    · cases h.symm.trans himage
      exact hrest
  · rintro ⟨wf, drawn, made, rest⟩
    exact .resetDraws P isFrame hr h wf drawn made rest

end

/-! ### The codes of a response -/

theorem status_code_eq_refused {x : Response} : x.status.code = 0xFF#8 ↔ ∃ c, x = .refused c := by
  cases x <;> simp [Response.status, Status.code]

theorem status_code_eq_transport {x : Response} : x.status.code = 0x03#8 ↔ ∃ c, x = .transport c := by
  cases x <;> simp [Response.status, Status.code]

theorem status_code_eq_validation {x : Response} : x.status.code = 0x01#8 ↔ ∃ c, x = .validation c := by
  cases x <;> simp [Response.status, Status.code]

/-- A step that ends a request leaves a chip as much as its response's code says. -/
theorem chipStep_of_response {s t : State} {x : Response} (u : State) (hr : s.resetIn = false) (hq : s.request ≠ none)
    (hs : step s = .next t) (ht : t.request = none) (hx : t.response = some x) :
    if x.status.code = 0xFF#8 then ChipStep s u
    else if x.status.code = 0x01#8 ∧ 0x10 ≤ x.sub.toNat ∧ x.sub.toNat ≤ 0x15 then
      (ChipStep s u ↔ ∃ c : ValidationCause, 0x10 ≤ c.code.toNat ∧ c.code.toNat ≤ 0x15 ∧ u = s.respond (.validation c))
    else if x.status.code = 0x03#8 then
      ∃ P, s.inFlightImage = some (P, true) ∧
        (ChipStep s u ↔ (s.outBuf.wf → u.outBuf.wf) ∧ drawnFrom s u P ∧
          u = { t with outBuf := u.outBuf, draws := u.draws })
    else (ChipStep s u ↔ u = t) := by
  obtain ⟨r, hq'⟩ := Option.ne_none_iff_exists'.1 hq
  split
  · rename_i hcode
    obtain ⟨c, rfl⟩ := status_code_eq_refused.1 hcode
    exact .refused (State.refuses_of_next hr hq hs ht hx)
  rename_i hrefused
  split
  · rename_i hcode
    obtain ⟨c, rfl⟩ := status_code_eq_validation.1 hcode.1
    obtain rfl := errorResponsesLeaveNothing s t r _ hr hq' hs ht hx (by simp [Response.status]) (by simp [Response.status])
    rw [chipStep_iff_of_token hr hq ((isToken_iff_code c).2 hcode.2) hs]
    simp only [isToken_iff_code, and_assoc]
  rename_i htoken
  split
  · rename_i hcode
    obtain ⟨c, rfl⟩ := status_code_eq_transport.1 hcode
    exact chipStep_iff_of_transport hr hq hs ht hx
  rename_i htransport
  refine chipStep_iff_of_settled hs hr (State.not_refuses_of_next hr hs (.inr ?_)) (.inr (.inr ?_)) (.inr (.inr ?_)) u
  · rintro c hc
    cases hx.symm.trans hc
    exact hrefused rfl
  · rintro c hc hresp
    cases hx.symm.trans hresp
    exact htoken ⟨rfl, (isToken_iff_code c).1 hc⟩
  · rintro c hc
    cases hx.symm.trans hc
    exact htransport rfl

/-- Settles O60: the tables by their rows; of a chip, the six arms of `ChipStep` at a response, at a wait, at a reset and
where the model stops. -/
theorem responseCodesAreTheTables : Obligations.ResponseCodesAreTheTables := by
  refine ⟨fun _ => rfl, fun c => ⟨c.code, ?_, rfl⟩, fun _ => rfl, fun c => ⟨c.code, ?_, rfl⟩, rfl, rfl,
    fun c => ⟨c.code, ?_, rfl⟩, fun s t u x hr hq hs ht hx => chipStep_of_response u hr hq hs ht hx,
    fun s t u hr hs hw => ?_, fun s u hr => ⟨fun hR => .refused hR, fun hn h => chipStep_iff_of_reset_no_image hr hn h,
      fun hn P isFrame h => ?_⟩, fun s u hstop => .stopped hstop⟩
  · cases c <;> decide
  · cases c <;> decide
  · cases c <;> decide
  · refine chipStep_iff_of_settled hs hr ?_ (hw.imp_right .inl) (hw.imp_right .inl) u
    obtain hq | ht := hw
    · exact fun hR => hR.1 hq
    · exact State.not_refuses_of_next hr hs (.inl ht)
  · rw [chipStep_iff_of_reset_image hr hn h]
    cases isFrame with
    | false => rw [openCalls_of_write]
    | true =>
      rcases hc : s.call with _ | ⟨_ | _, Q⟩
      · rw [openCalls_of_not_begun hc]
        rfl
      · rw [openCalls_of_assoc hc]
        rfl
      · rw [openCalls_of_tx hc]
        rfl

end Sys2Proof.Machine
end

section

/-! The packed word's fields (R121, R86), and what two words share under a mask (R91). -/

namespace Sys2Proof

/-! ### Fields under a mask -/

theorem field_field {w : Nat} (b : BitVec w) {lo n lo' m : Nat} (h : lo' + m ≤ n) :
    field (field b lo n) lo' m = field b (lo + lo') m :=
  BitVec.eq_of_getLsbD_eq fun i hi => by
    have hn : lo' + i < n := by omega
    simp only [getLsbD_field, hi, hn, decide_true, Bool.true_and, Nat.add_assoc]

/-- Words that agree under a mask agree on every field that the mask keeps. -/
theorem field_eq_of_and_eq {w lo n : Nat} {a b m : BitVec w} (h : a &&& m = b &&& m)
    (hm : field m lo n = BitVec.allOnes n) : field a lo n = field b lo n := by
  simpa only [field_and, hm, BitVec.and_allOnes] using congrArg (field · lo n) h

theorem getLsbD_eq_of_and_eq {w i : Nat} {a b m : BitVec w} (h : a &&& m = b &&& m) (hm : m.getLsbD i = true) :
    a.getLsbD i = b.getLsbD i := by
  simpa only [BitVec.getLsbD_and, hm, Bool.and_true] using congrArg (·.getLsbD i) h

/-- A field that is zero meets a mask of that field in zero. -/
theorem and_place_eq_zero {w lo n : Nat} {b : BitVec w} (v : BitVec n) (h : field b lo n = 0#n) :
    b &&& place w v lo = 0#w := by
  refine BitVec.eq_of_getLsbD_eq fun i hi => ?_
  simp only [BitVec.getLsbD_and, getLsbD_place, BitVec.getLsbD_zero]
  by_cases hlo : lo ≤ i ∧ i - lo < n
  · have hz := congrArg (·.getLsbD (i - lo)) h
    simp only [getLsbD_field, BitVec.getLsbD_zero, hlo.2, decide_true, Bool.true_and, Nat.add_sub_cancel' hlo.1] at hz
    rw [hz, Bool.false_and]
  · by_cases hi' : lo ≤ i
    · rw [BitVec.getLsbD_of_ge v _ (by omega)]
      simp
    · simp [hi']

/-- A word whose encoding is not Legacy is not AUTO. -/
theorem isAuto_of_code {w : Word} (h : field w 24 2 ≠ 0#2) : isAuto w = false := by
  refine Bool.eq_false_iff.2 fun ha => h ?_
  rw [← field_field w (lo := 10) (n := 22) (lo' := 14) (by decide), ((isAuto_iff_fields w).1 ha).2, field_zero]

namespace Machine

/-! ### The fields of the packed word -/

section
variable (cfg : Cfg) (p : RsParams)

theorem packHe_of_ne_he {cfg : Cfg} {p : RsParams} (h : p.enc ≠ .he) : packHe cfg p = 0#32 := if_neg h

/-- The fields of an encoding's rate lie in the low byte. -/
theorem field_packRate_high {lo : Nat} (n : Nat) (h : 8 ≤ lo) : field (packRate p) lo n = 0#n := by
  unfold packRate
  split
  · exact field_place_disjoint _ (.inr (by omega))
  · exact field_place_disjoint _ (.inr (by omega))
  · rw [field_or, field_place_disjoint _ (.inr (by omega)), field_place_disjoint _ (.inr (by omega)), BitVec.or_self]
  · rw [field_or, field_place_disjoint _ (.inr (by omega)), field_place_disjoint _ (.inr (by omega)), BitVec.or_self]

/-- The fields of HE alone are bits 11:10, 14, 15 and 19. -/
theorem field_packHe_disjoint {lo n : Nat}
    (h : lo + n ≤ 10 ∨ (12 ≤ lo ∧ lo + n ≤ 14) ∨ (16 ≤ lo ∧ lo + n ≤ 19) ∨ 20 ≤ lo) :
    field (packHe cfg p) lo n = 0#n := by
  unfold packHe
  split
  · simp only [field_or]
    rw [field_place_disjoint _ (by omega), field_place_disjoint _ (by omega), field_place_disjoint _ (by omega),
      field_place_disjoint _ (by omega)]
    simp
  · exact field_zero 32 lo n

/-- The fields of every encoding, read from the packed word. -/
theorem field_pack_shared {lo n : Nat} (hlo : 8 ≤ lo)
    (h : lo + n ≤ 10 ∨ (12 ≤ lo ∧ lo + n ≤ 14) ∨ (16 ≤ lo ∧ lo + n ≤ 19) ∨ 20 ≤ lo) :
    field (pack cfg p) lo n = field (packShared p) lo n := by
  rw [pack, field_or, field_or, field_packRate_high p n hlo, field_packHe_disjoint cfg p h]
  simp

/-- The low byte is the fields of the encoding's rate. -/
theorem field_pack_low {lo n : Nat} (h : lo + n ≤ 8) : field (pack cfg p) lo n = field (packRate p) lo n := by
  have hshared : field (packShared p) lo n = 0#n := by
    simp only [packShared, field_or]
    rw [field_place_disjoint _ (by omega), field_place_disjoint _ (by omega), field_place_disjoint _ (by omega),
      field_place_disjoint _ (by omega), field_place_disjoint _ (by omega), field_place_disjoint _ (by omega)]
    simp
  rw [pack, field_or, field_or, hshared, field_packHe_disjoint cfg p (.inl (by omega))]
  simp

end

/-- Where each field of the operands `p` stands in the word `w` (R121, R86), and which bits are 0 (R91). -/
structure Packed (cfg : Cfg) (p : RsParams) (w : Word) : Prop where
  code : field w 24 2 = p.enc.code
  rate : p.enc = .legacy ∨ p.enc = .ht → field w 0 7 = p.rate ∧ w.getLsbD 7 = false
  mcsNss : p.enc = .vht ∨ p.enc = .he → field w 0 4 = p.mcs ∧ field w 4 4 = p.nss
  txexp : field w 8 2 = p.txexp
  bw : field w 16 3 = p.bw
  stbc : w.getLsbD 20 = p.stbc
  ldpc : w.getLsbD 22 = p.ldpc
  sgi : w.getLsbD 23 = p.sgi
  he : p.enc = .he → field w 10 2 = p.heGi ∧ w.getLsbD 19 = p.dcm ∧ w.getLsbD 15 = p.erEn ∧
    w.getLsbD 14 = (p.erEn && (if p.er106 then cfg.erTone106 else !cfg.erTone106))
  notHe : p.enc ≠ .he → field w 10 2 = 0 ∧ w.getLsbD 19 = false ∧ w.getLsbD 15 = false ∧ w.getLsbD 14 = false
  reserved13 : field w 12 2 = 0
  reserved21 : w.getLsbD 21 = false
  reserved26 : field w 26 6 = 0

/-- `PACK` places every field: each is read from the one part of the word that has it. -/
theorem packed_pack (cfg : Cfg) (p : RsParams) : Packed cfg p (pack cfg p) where
  code := by simp [field_pack_shared, packShared, field_or, field_place_same, field_place_disjoint]
  rate := by
    intro h
    rw [getLsbD_eq_false_iff, field_pack_low cfg p (by decide), field_pack_low cfg p (by decide)]
    obtain h | h := h <;> simp [packRate, h, field_place_same, field_place_disjoint]
  mcsNss := by
    intro h
    rw [field_pack_low cfg p (by decide), field_pack_low cfg p (by decide)]
    obtain h | h := h <;> simp [packRate, h, field_or, field_place_same, field_place_disjoint]
  txexp := by simp [field_pack_shared, packShared, field_or, field_place_same, field_place_disjoint]
  bw := by simp [field_pack_shared, packShared, field_or, field_place_same, field_place_disjoint]
  stbc := getLsbD_of_field_one (by
    simp [field_pack_shared, packShared, field_or, field_place_same, field_place_disjoint])
  ldpc := getLsbD_of_field_one (by
    simp [field_pack_shared, packShared, field_or, field_place_same, field_place_disjoint])
  sgi := getLsbD_of_field_one (by
    simp [field_pack_shared, packShared, field_or, field_place_same, field_place_disjoint])
  he := by
    intro h
    refine ⟨?_, getLsbD_of_field_one ?_, getLsbD_of_field_one ?_, getLsbD_of_field_one ?_⟩ <;>
      simp [pack, packRate, packShared, packHe, erTone, h, field_or, field_place_same, field_place_disjoint]
  notHe := by
    intro h
    simp only [getLsbD_eq_false_iff, pack, packHe_of_ne_he h, BitVec.or_zero, field_or]
    simp [packShared, field_or, field_place_disjoint, field_packRate_high]
  reserved13 := by simp [field_pack_shared, packShared, field_or, field_place_disjoint]
  reserved21 := (getLsbD_eq_false_iff _ _).2 (by simp [field_pack_shared, packShared, field_or, field_place_disjoint])
  reserved26 := by simp [field_pack_shared, packShared, field_or, field_place_disjoint]

/-- Settles O25, field by field. -/
theorem packPlacesEveryField : Obligations.PackPlacesEveryField := by
  intro cfg p
  obtain ⟨code, rate, mcsNss, txexp, bw, stbc, ldpc, sgi, he, notHe, reserved13, reserved21, reserved26⟩ := packed_pack cfg p
  exact ⟨code, rate, mcsNss, txexp, bw, stbc, ldpc, sgi, he, notHe, reserved13, reserved21, reserved26⟩

/-- The low byte of a Legacy or HT word is its rate. -/
theorem Packed.rateByte {cfg : Cfg} {p : RsParams} {w : Word} (h : Packed cfg p w) (he : p.enc = .legacy ∨ p.enc = .ht) :
    (field w 0 8).toNat = p.rate.toNat := by
  obtain ⟨hrate, h7⟩ := h.rate he
  have hlow : place 8 (field (field w 0 8) 0 7) 0 = field w 0 8 :=
    place_field_eq_self (m := 1) rfl (by rw [field_field w (by decide)]; exact (getLsbD_eq_false_iff w 7).1 h7)
  rw [field_field w (by decide), hrate] at hlow
  rw [← hlow, place, BitVec.shiftLeft_zero, BitVec.toNat_setWidth_of_le (by decide)]

/-! ### The strings of RSPEC.DECODE -/

/-- The response to a word that is not AUTO reads only these fields of it (R91). -/
theorem decodeResponse_congr (cfg : Cfg) {w w' : Word} (ha : isAuto w = false) (ha' : isAuto w' = false)
    (h : w &&& 0x03DFCFFF#32 = w' &&& 0x03DFCFFF#32) : decodeResponse cfg w = decodeResponse cfg w' := by
  rw [decodeResponse_of_not_isAuto cfg ha, decodeResponse_of_not_isAuto cfg ha']
  have code : field w 24 2 = field w' 24 2 := field_eq_of_and_eq h (by decide)
  have byte : field w 0 8 = field w' 0 8 := field_eq_of_and_eq h (by decide)
  have rate : field w 0 7 = field w' 0 7 := field_eq_of_and_eq h (by decide)
  have mcs : field w 0 4 = field w' 0 4 := field_eq_of_and_eq h (by decide)
  have nss : field w 4 4 = field w' 4 4 := field_eq_of_and_eq h (by decide)
  have txexp : field w 8 2 = field w' 8 2 := field_eq_of_and_eq h (by decide)
  have gi : field w 10 2 = field w' 10 2 := field_eq_of_and_eq h (by decide)
  have bw : field w 16 3 = field w' 16 3 := field_eq_of_and_eq h (by decide)
  have tone : w.getLsbD 14 = w'.getLsbD 14 := getLsbD_eq_of_and_eq h (by decide)
  have er : w.getLsbD 15 = w'.getLsbD 15 := getLsbD_eq_of_and_eq h (by decide)
  have dcm : w.getLsbD 19 = w'.getLsbD 19 := getLsbD_eq_of_and_eq h (by decide)
  have stbc : w.getLsbD 20 = w'.getLsbD 20 := getLsbD_eq_of_and_eq h (by decide)
  have ldpc : w.getLsbD 22 = w'.getLsbD 22 := getLsbD_eq_of_and_eq h (by decide)
  have sgi : w.getLsbD 23 = w'.getLsbD 23 := getLsbD_eq_of_and_eq h (by decide)
  simp only [legacyString, htString, vhtString, heString, mcsNssString, txexpString, bwString, stbcSuffix, ldpcSuffix,
    sgiSuffix, dcmSuffix, giSuffix, erSuffix, code, byte, rate, mcs, nss, txexp, gi, bw, tone, er, dcm, stbc, ldpc, sgi]

/-- An HT word's string reads fewer bits: not bit 7 of the rate, and none of HE's (R91). -/
theorem htString_congr (cfg : Cfg) {w w' : Word} (h : w &&& 0x03DFCF7F#32 = w' &&& 0x03DFCF7F#32) :
    htString cfg w = htString cfg w' := by
  have rate : field w 0 7 = field w' 0 7 := field_eq_of_and_eq h (by decide)
  have txexp : field w 8 2 = field w' 8 2 := field_eq_of_and_eq h (by decide)
  have bw : field w 16 3 = field w' 16 3 := field_eq_of_and_eq h (by decide)
  have stbc : w.getLsbD 20 = w'.getLsbD 20 := getLsbD_eq_of_and_eq h (by decide)
  have ldpc : w.getLsbD 22 = w'.getLsbD 22 := getLsbD_eq_of_and_eq h (by decide)
  have sgi : w.getLsbD 23 = w'.getLsbD 23 := getLsbD_eq_of_and_eq h (by decide)
  simp only [htString, txexpString, bwString, stbcSuffix, ldpcSuffix, sgiSuffix, rate, txexp, bw, stbc, ldpc, sgi]

theorem decodeResponse_of_ht (cfg : Cfg) {w : Word} (h : field w 24 2 = 1#2) :
    decodeResponse cfg w = .ok (.string (htString cfg w)) := by
  rw [decodeResponse_of_not_isAuto cfg (isAuto_of_code (by rw [h]; decide)), h]
  rfl

theorem exec_rspecDecode (w : Word) (s : State) : exec (.rspecDecode w) s = .next (s.respond (decodeResponse s.cfg w)) :=
  rfl

/-- Settles O32: the packed word is zero in the mask's three fields, and the strings read only fields that the masks
keep. -/
theorem reservedWordBitsIgnored : Obligations.ReservedWordBitsIgnored := by
  refine ⟨fun cfg p => ?_, fun w w' s ha ha' h => ?_, fun w w' s hc h => ?_⟩
  · have hp := packed_pack cfg p
    have hmask : 0xFC203000#32 = place 32 3#2 12 ||| place 32 1#1 21 ||| place 32 63#6 26 := by decide
    rw [hmask, BitVec.and_or_distrib_left, BitVec.and_or_distrib_left, and_place_eq_zero _ hp.reserved13,
      and_place_eq_zero _ ((getLsbD_eq_false_iff _ _).1 hp.reserved21), and_place_eq_zero _ hp.reserved26]
    simp
  · rw [exec_rspecDecode, exec_rspecDecode,
      decodeResponse_congr s.cfg ((isAuto_eq_false_iff w).2 ha) ((isAuto_eq_false_iff w').2 ha') h]
  · have hc' : field w' 24 2 = 1#2 := (field_eq_of_and_eq h (by decide)).symm.trans hc
    rw [exec_rspecDecode, exec_rspecDecode, decodeResponse_of_ht _ hc, decodeResponse_of_ht _ hc', htString_congr s.cfg h]

end Machine
end Sys2Proof
end

section

/-! The strings of RSPEC.DECODE: written out (R131 to R135), of encoded words (R139), and what they determine. -/

namespace Sys2Proof.Machine

/-! ### Decimal numerals (R11) -/

theorem digitByte_toNat {d : Nat} (h : d < 10) : (digitByte d).toNat = 0x30 + d := by
  simp only [digitByte, h, if_true, BitVec.toNat_ofNat]
  omega

theorem dec_of_ne_zero {n : Nat} (h : n ≠ 0) : dec n = (Nat.digits 10 n).reverse.map digitByte := if_neg h

/-- Every byte of a numeral is a digit. -/
theorem isDigit_of_mem_dec {n : Nat} {b : Byte} (h : b ∈ dec n) : isDigit b = true := by
  by_cases hn : n = 0
  · subst hn
    obtain rfl : b = 0x30#8 := by simpa [dec] using h
    decide
  · rw [dec_of_ne_zero hn] at h
    obtain ⟨d, hd, rfl⟩ := List.mem_map.1 h
    have hd : d < 10 := Nat.digits_lt_base (by decide) (List.mem_reverse.1 hd)
    simp only [isDigit, digitByte_toNat hd, Bool.and_eq_true, decide_eq_true_eq]
    omega

theorem dec_ne_nil (n : Nat) : dec n ≠ [] := by
  by_cases hn : n = 0
  · simp [dec, hn]
  · simp [dec_of_ne_zero hn, Nat.digits_ne_nil_iff_ne_zero.2 hn]

/-- The value of a numeral is its number. -/
@[simp] theorem digitsValue_dec (n : Nat) : digitsValue (dec n) = n := by
  by_cases hn : n = 0
  · subst hn; rfl
  · rw [dec_of_ne_zero hn, digitsValue, List.foldl_map, List.foldl_reverse]
    have key : ∀ ds : List Nat, (∀ d ∈ ds, d < 10) →
        ds.foldr (fun d v => 10 * v + digitVal (digitByte d)) 0 = Nat.ofDigits 10 ds := by
      intro ds hds
      induction ds with
      | nil => rfl
      | cons d ds ih =>
        have hd : digitVal (digitByte d) = d := by
          rw [digitVal, digitByte_toNat (hds d (by simp))]
          omega
        rw [List.foldr_cons, ih fun x hx => hds x (by simp [hx]), Nat.ofDigits_cons, hd, Nat.add_comm]
    rw [key _ fun d hd => Nat.digits_lt_base (by decide) hd, Nat.ofDigits_digits]

/-- A numeral of a number other than zero starts with no zero. -/
theorem head?_dec {n : Nat} (hn : n ≠ 0) : (dec n).head? ≠ some 0x30#8 := by
  rw [dec_of_ne_zero hn, List.head?_map, List.head?_reverse]
  intro h
  obtain ⟨d, hd, hz⟩ := Option.map_eq_some_iff.1 h
  have hlt : d < 10 := Nat.digits_lt_base (by decide) (List.mem_of_getLast? hd)
  have hd0 : d = 0 := by
    have := congrArg BitVec.toNat hz
    rw [digitByte_toNat hlt] at this
    simpa using this
  rw [List.getLast?_eq_some_getLast (Nat.digits_ne_nil_iff_ne_zero.2 hn)] at hd
  exact Nat.getLast_digit_ne_zero 10 hn ((Option.some.inj hd).trans hd0)

theorem dec_inj {m n : Nat} (h : dec m = dec n) : m = n := by
  rw [← digitsValue_dec m, h, digitsValue_dec]

/-- A run of bytes of one kind, up to the first that is not. -/
theorem takeWhile_run {f : Byte → Bool} {ds r : Str} (hds : ∀ b ∈ ds, f b = true)
    (hr : ∀ b, r.head? = some b → f b = false) : (ds ++ r).takeWhile f = ds := by
  rw [List.takeWhile_append_of_pos hds]
  cases r with
  | nil => simp
  | cons b r => rw [List.takeWhile_cons_of_neg (by simp [hr b rfl]), List.append_nil]

/-- Two numerals that no digit follows are split off alike. -/
theorem dec_append_inj {m n : Nat} {u v : Str} (hu : ∀ b, u.head? = some b → isDigit b = false)
    (hv : ∀ b, v.head? = some b → isDigit b = false) (h : dec m ++ u = dec n ++ v) : m = n ∧ u = v := by
  have hdec : dec m = dec n := by
    rw [← takeWhile_run (fun _ => isDigit_of_mem_dec) hu, h, takeWhile_run (fun _ => isDigit_of_mem_dec) hv]
  rw [hdec] at h
  exact ⟨dec_inj hdec, List.append_cancel_left h⟩

/-! ### The strings written out -/

theorem State.respond_inj {s : State} {x y : Response}
    (h : (.next (s.respond x) : Host.Outcome State Fault Refusal) = .next (s.respond y)) : x = y :=
  Option.some.inj (congrArg State.response (Host.Outcome.next.inj h))

/-- Settles O29: the word is its bytes, the numerals are read back by their value, and the strings are those of
R132 to R135 written one after the other. -/
theorem decodeGivesTheString : Obligations.DecodeGivesTheString := by
  refine ⟨fun b1 b2 b3 b4 => ?_, fun n => ⟨dec_ne_nil n, fun b hb => ?_, digitsValue_dec n, head?_dec, rfl⟩, by decide,
    fun cfg => ⟨rfl, rfl, rfl, rfl⟩, fun w s => ?_⟩
  · exact congrArg (fun w => Except.ok (Instr.rspecDecode w)) (by simp [ofLe32, place])
  · simpa [isDigit] using isDigit_of_mem_dec hb
  · rw [exec_rspecDecode]
    cases ha : isAuto w with
    | true => rw [decodeResponse_of_isAuto _ ha, if_pos ((isAuto_iff w).1 ha)]; rfl
    | false =>
      rw [decodeResponse_of_not_isAuto _ ha, if_neg ((isAuto_eq_false_iff w).1 ha)]
      have hmbps : ascii " Mbps Tx Exp " = ascii " Mbps" ++ ascii " Tx Exp " := rfl
      have her : erSuffix s.cfg w = if w.getLsbD 15 = false then [] else
          if w.getLsbD 14 = s.cfg.erTone106 then ascii " er 106" else ascii " er 242" := by
        unfold erSuffix
        cases w.getLsbD 15 <;> rfl
      match hc : field w 24 2 with
      | 0#2 => simp [legacyString, txexpString, hmbps]
      | 1#2 => simp [htString, txexpString, bwString, stbcSuffix, ldpcSuffix, sgiSuffix, suffix]
      | 2#2 => simp [vhtString, mcsNssString, txexpString, bwString, stbcSuffix, ldpcSuffix, sgiSuffix, suffix]
      | 3#2 => simp [heString, mcsNssString, txexpString, bwString, stbcSuffix, ldpcSuffix, dcmSuffix, giSuffix, suffix, her]

end Sys2Proof.Machine
end

section

/-! The displayed string of an encoded word (R139), the AUTO string (R92), and ASCII (R12). -/

namespace Sys2Proof.Machine

/-! ### The documented string of the operands -/

/-- What the string of an encoding starts with (R132 to R135). -/
def displayName : RateEnc → Str
  | .legacy => ascii "rate "
  | .ht => ascii "ht mcs "
  | .vht => ascii "vht mcs "
  | .he => ascii "he mcs "

/-- The flags shown after the bandwidth (R130). -/
def displayFlags (cfg : Cfg) (p : RsParams) : Str :=
  suffix p.stbc cfg.lblStbc ++ suffix p.ldpc cfg.lblLdpc ++
    if p.enc = .he then
      hegiLabel cfg p.heGi ++ suffix p.dcm cfg.lblDcm ++
        (if p.erEn then (if p.er106 then ascii " er 106" else ascii " er 242") else [])
    else suffix p.sgi cfg.lblSgi

/-- `txexp`, the bandwidth and the flags. -/
def displayTail (cfg : Cfg) (p : RsParams) : Str :=
  ascii " Tx Exp " ++ (dec p.txexp.toNat ++ (ascii " BW " ++ (bwLabel p.bw ++ displayFlags cfg p)))

/-- What the string shows after the name. -/
def displayBody (cfg : Cfg) (p : RsParams) : Str :=
  match p.enc with
  | .legacy =>
    dec (p.rate.toNat / 2) ++ ((if p.rate.toNat % 2 = 1 then ascii ".5" else []) ++
      (ascii " Mbps Tx Exp " ++ dec p.txexp.toNat))
  | .ht => dec p.rate.toNat ++ displayTail cfg p
  | .vht | .he => dec p.mcs.toNat ++ (ascii " Nss " ++ (dec p.nss.toNat ++ displayTail cfg p))

/-- R139: RSPEC.DECODE of an encoded word that is not AUTO shows the operands. -/
theorem decodeResponse_pack {cfg : Cfg} {p : RsParams} (ha : pack cfg p &&& 0xFFFFFCFF#32 ≠ 0#32) :
    decodeResponse cfg (pack cfg p) = .ok (.string (displayName p.enc ++ displayBody cfg p)) := by
  have hp := packed_pack cfg p
  rw [decodeResponse_of_not_isAuto _ ((isAuto_eq_false_iff _).2 ha), hp.code]
  have hmbps : ascii " Mbps Tx Exp " = ascii " Mbps" ++ ascii " Tx Exp " := rfl
  have hstbc : stbcSuffix cfg (pack cfg p) = suffix p.stbc cfg.lblStbc := by rw [stbcSuffix, hp.stbc]
  have hldpc : ldpcSuffix cfg (pack cfg p) = suffix p.ldpc cfg.lblLdpc := by rw [ldpcSuffix, hp.ldpc]
  have hsgi : sgiSuffix cfg (pack cfg p) = suffix p.sgi cfg.lblSgi := by rw [sgiSuffix, hp.sgi]
  cases he : p.enc with
  | legacy =>
    simp [RateEnc.code, displayName, displayBody, he, legacyString, txexpString, hp.rateByte (.inl he), hp.txexp, hmbps]
  | ht =>
    simp [RateEnc.code, displayName, displayBody, displayTail, displayFlags, he, htString, txexpString, bwString,
      (hp.rate (.inr he)).1, hp.txexp, hp.bw, hstbc, hldpc, hsgi]
  | vht =>
    simp [RateEnc.code, displayName, displayBody, displayTail, displayFlags, he, vhtString, mcsNssString, txexpString,
      bwString, hp.mcsNss (.inl he), hp.txexp, hp.bw, hstbc, hldpc, hsgi]
  | he =>
    obtain ⟨hgi, hdcm, her, htone⟩ := hp.he he
    have hdcms : dcmSuffix cfg (pack cfg p) = suffix p.dcm cfg.lblDcm := by rw [dcmSuffix, hdcm]
    have hers : erSuffix cfg (pack cfg p) =
        if p.erEn then (if p.er106 then ascii " er 106" else ascii " er 242") else [] := by
      rw [erSuffix, her, htone]
      cases p.erEn <;> cases p.er106 <;> simp
    simp [RateEnc.code, displayName, displayBody, displayTail, displayFlags, he, heString, mcsNssString, txexpString,
      bwString, giSuffix, hp.mcsNss (.inr he), hp.txexp, hp.bw, hstbc, hldpc, hgi, hdcms, hers]

/-- Settles O33: the operands are the packed word's fields, and the ER tone shown is the one asked for, since the bit is
compared with the polarity that set it. -/
theorem encodedWordsDisplayTheirOperands : Obligations.EncodedWordsDisplayTheirOperands := by
  intro p s _ ha
  rw [exec_rspecDecode, decodeResponse_pack ha]
  cases he : p.enc <;> simp [displayName, displayBody, displayTail, displayFlags, suffix, he]

/-! ### What the string determines -/

theorem displayName_append_inj {e e' : RateEnc} {x y : Str} (h : displayName e ++ x = displayName e' ++ y) : e = e' := by
  have key : ∀ c c' : BitVec 2, (displayName (.ofCode c)).take 2 = (displayName (.ofCode c')).take 2 → c = c' := by decide
  have hlen (e : RateEnc) : 2 ≤ (displayName e).length := by cases e <;> decide
  have htake := congrArg (List.take 2) h
  rw [List.take_append_of_le_length (hlen e), List.take_append_of_le_length (hlen e'), ← e.ofCode_code,
    ← e'.ofCode_code] at htake
  exact RateEnc.code_inj (key _ _ htake)

/-- A string that starts with no digit, whatever follows. -/
theorem isDigit_head {l x : Str} {c : Byte} (hl : l.head? = some c) (hc : isDigit c = false) (b : Byte)
    (h : (l ++ x).head? = some b) : isDigit b = false := by
  rw [List.head?_append, hl] at h
  cases h
  exact hc

/-- No bandwidth label starts another (R88), so the label is read off whatever follows it. -/
theorem bwLabel_append_inj {a b : BitVec 3} {u v : Str} (h : bwLabel a ++ u = bwLabel b ++ v) : a = b := by
  have key : ∀ a b : BitVec 3, bwLabel a <+: bwLabel b → a = b := by decide
  obtain ⟨x, hx, -⟩ | ⟨x, hx, -⟩ := List.append_eq_append_iff.1 h
  · exact key a b ⟨x, hx.symm⟩
  · exact (key b a ⟨x, hx.symm⟩).symm

theorem displayTail_inj {cfg : Cfg} {p q : RsParams} (h : displayTail cfg p = displayTail cfg q) :
    p.txexp = q.txexp ∧ p.bw = q.bw := by
  obtain ⟨htx, hbw⟩ := dec_append_inj (isDigit_head rfl rfl) (isDigit_head rfl rfl)
    (List.append_cancel_left h)
  exact ⟨BitVec.eq_of_toNat_eq htx, bwLabel_append_inj (List.append_cancel_left hbw)⟩

theorem mcsNss_inj {cfg : Cfg} {p q : RsParams}
    (h : dec p.mcs.toNat ++ (ascii " Nss " ++ (dec p.nss.toNat ++ displayTail cfg p)) =
      dec q.mcs.toNat ++ (ascii " Nss " ++ (dec q.nss.toNat ++ displayTail cfg q))) :
    p.txexp = q.txexp ∧ (p.mcs = q.mcs ∧ p.nss = q.nss) ∧ p.bw = q.bw := by
  obtain ⟨hm, h⟩ := dec_append_inj (isDigit_head rfl rfl) (isDigit_head rfl rfl) h
  obtain ⟨hn, h⟩ := dec_append_inj (isDigit_head rfl rfl) (isDigit_head rfl rfl)
    (List.append_cancel_left h)
  obtain ⟨htx, hbw⟩ := displayTail_inj h
  exact ⟨htx, ⟨BitVec.eq_of_toNat_eq hm, BitVec.eq_of_toNat_eq hn⟩, hbw⟩

/-- The half of a Legacy rate is read off its string. -/
theorem half_append_inj {m n : Nat} {x y : Str}
    (h : (if m % 2 = 1 then ascii ".5" else []) ++ (ascii " Mbps Tx Exp " ++ x) =
      (if n % 2 = 1 then ascii ".5" else []) ++ (ascii " Mbps Tx Exp " ++ y)) : m % 2 = n % 2 ∧ x = y := by
  obtain hm | hm := Nat.mod_two_eq_zero_or_one m <;> obtain hn | hn := Nat.mod_two_eq_zero_or_one n <;>
    rw [hm, hn] at h
  · exact ⟨hm.trans hn.symm, List.append_cancel_left h⟩
  · cases congrArg List.head? h
  · cases congrArg List.head? h
  · exact ⟨hm.trans hn.symm, List.append_cancel_left (List.append_cancel_left h)⟩

theorem isDigit_half_head {n : Nat} {x : Str} (b : Byte)
    (h : ((if n % 2 = 1 then ascii ".5" else []) ++ (ascii " Mbps Tx Exp " ++ x)).head? = some b) :
    isDigit b = false := by
  split at h <;> cases h <;> decide

/-- Settles O34: the name gives the encoding; then each numeral ends where its digits do, and the bandwidth label before
whatever labels follow. -/
theorem displayDeterminesFields : Obligations.DisplayDeterminesFields := by
  intro p q s _ _ hap haq h
  rw [exec_rspecDecode, exec_rspecDecode, decodeResponse_pack hap, decodeResponse_pack haq] at h
  have hstring : displayName p.enc ++ displayBody s.cfg p = displayName q.enc ++ displayBody s.cfg q := by
    simpa using State.respond_inj h
  have henc : p.enc = q.enc := displayName_append_inj hstring
  rw [henc] at hstring
  have hbody := List.append_cancel_left hstring
  cases he : q.enc with
  | legacy =>
    obtain ⟨hwhole, hrest⟩ := dec_append_inj isDigit_half_head isDigit_half_head
      (by simpa only [displayBody, henc, he] using hbody)
    obtain ⟨hhalf, htx⟩ := half_append_inj hrest
    have hrate : p.rate = q.rate := BitVec.eq_of_toNat_eq (by omega)
    exact ⟨henc.trans he, BitVec.eq_of_toNat_eq (dec_inj htx), fun _ => hrate, by simp [henc, he], by simp [henc, he]⟩
  | ht =>
    have hnumeral : dec p.rate.toNat ++ displayTail s.cfg p = dec q.rate.toNat ++ displayTail s.cfg q := by
      simpa only [displayBody, henc, he] using hbody
    obtain ⟨hrate, htail⟩ := dec_append_inj (isDigit_head rfl rfl) (isDigit_head rfl rfl) hnumeral
    obtain ⟨htx, hbw⟩ := displayTail_inj htail
    exact ⟨henc.trans he, htx, fun _ => BitVec.eq_of_toNat_eq hrate, by simp [henc, he], fun _ => hbw⟩
  | vht =>
    obtain ⟨htx, hmn, hbw⟩ := mcsNss_inj (by simpa only [displayBody, henc, he] using hbody)
    exact ⟨henc.trans he, htx, by simp [henc, he], fun _ => hmn, fun _ => hbw⟩
  | he =>
    obtain ⟨htx, hmn, hbw⟩ := mcsNss_inj (by simpa only [displayBody, henc, he] using hbody)
    exact ⟨henc.trans he, htx, by simp [henc, he], fun _ => hmn, fun _ => hbw⟩

/-! ### AUTO -/

/-- An AUTO string starts with `a`, and no other string does. -/
theorem head?_string_of_not_isAuto (cfg : Cfg) {w : Word} (h : isAuto w = false) :
    ∃ x, decodeResponse cfg w = .ok (.string x) ∧ x.head? ≠ some 0x61#8 := by
  refine ⟨_, decodeResponse_of_not_isAuto cfg h, ?_⟩
  match field w 24 2 with
  | 0#2 | 1#2 | 2#2 | 3#2 => simp [legacyString, htString, vhtString, heString, ascii]

/-- Settles O31: the string of every other word starts with the name of its encoding. -/
theorem autoExactlyTheAutoWord : Obligations.AutoExactlyTheAutoWord := by
  intro w s
  rw [exec_rspecDecode, ← isAuto_iff]
  constructor
  · intro h
    by_contra ha
    obtain ⟨x, hx, hhead⟩ := head?_string_of_not_isAuto s.cfg (Bool.not_eq_true _ ▸ ha)
    rw [hx] at h
    cases State.respond_inj h
    exact hhead rfl
  · intro ha
    rw [decodeResponse_of_isAuto s.cfg ha]
    rfl

/-- Settles O30: each row's word is its three fields side by side. -/
theorem wordClassesComplete : Obligations.WordClassesComplete := by
  have word (hi : BitVec 6) (code : BitVec 2) (lo : BitVec 24) :
      wordOf hi code lo = hi.setWidth 32 <<< 26 ||| code.setWidth 32 <<< 24 ||| lo.setWidth 32 := by simp [wordOf, place]
  refine ⟨fun txexp s => rfl, fun hi lo s _ => ?_, fun hi lo s => ?_, fun hi lo s => ?_, fun hi lo s => ?_⟩
  · simp [exec, execWordLegacy, word]
  · simp [exec, execWordHt, word]
  · simp [exec, execWordVht, word]
  · simp [exec, execWordHe, word]

/-! ### ASCII -/

theorem isAscii_append {x y : Str} (hx : Str.isAscii x) (hy : Str.isAscii y) : Str.isAscii (x ++ y) := by
  intro b hb
  obtain h | h := List.mem_append.1 hb
  · exact hx b h
  · exact hy b h

theorem isAscii_nil : Str.isAscii [] := fun _ hb => by cases hb

theorem isAscii_ite {c : Prop} [Decidable c] {x y : Str} (hx : Str.isAscii x) (hy : Str.isAscii y) :
    Str.isAscii (if c then x else y) := by
  split
  · exact hx
  · exact hy

theorem isAscii_suffix {f : Bool} {x : Str} (hx : Str.isAscii x) : Str.isAscii (suffix f x) :=
  isAscii_ite hx isAscii_nil

theorem isAscii_dec (n : Nat) : Str.isAscii (dec n) := by
  intro b hb
  have h := isDigit_of_mem_dec hb
  simp only [isDigit, Bool.and_eq_true, decide_eq_true_eq] at h
  omega

theorem isAscii_bwLabel (bw : BitVec 3) : Str.isAscii (bwLabel bw) := by
  revert bw
  decide

section
variable {cfg : Cfg}

theorem isAscii_hegiLabel (h : cfg.legal) (g : BitVec 2) : Str.isAscii (hegiLabel cfg g) := by
  obtain ⟨-, -, -, -, h0, h1, h2, h3⟩ := h
  match g with
  | 0#2 => exact h0
  | 1#2 => exact h1
  | 2#2 => exact h2
  | 3#2 => exact h3

theorem isAscii_txexpString (w : Word) : Str.isAscii (txexpString w) :=
  isAscii_append (by decide) (isAscii_dec _)

theorem isAscii_bwString (h : cfg.legal) (w : Word) : Str.isAscii (bwString cfg w) := by
  obtain ⟨hstbc, hldpc, -⟩ := h
  exact isAscii_append (isAscii_append (isAscii_append (by decide) (isAscii_bwLabel _)) (isAscii_suffix hstbc))
    (isAscii_suffix hldpc)

theorem isAscii_mcsNssString (w : Word) : Str.isAscii (mcsNssString w) :=
  isAscii_append (isAscii_append (isAscii_dec _) (by decide)) (isAscii_dec _)

theorem isAscii_legacyString (w : Word) : Str.isAscii (legacyString w) :=
  isAscii_append (isAscii_append (isAscii_append (isAscii_append (by decide) (isAscii_dec _))
    (isAscii_ite (by decide) isAscii_nil)) (by decide)) (isAscii_txexpString w)

theorem isAscii_htString (h : cfg.legal) (w : Word) : Str.isAscii (htString cfg w) := by
  have hsgi : Str.isAscii cfg.lblSgi := h.2.2.1
  exact isAscii_append (isAscii_append (isAscii_append (isAscii_append (by decide) (isAscii_dec _))
    (isAscii_txexpString w)) (isAscii_bwString h w)) (isAscii_suffix hsgi)

theorem isAscii_vhtString (h : cfg.legal) (w : Word) : Str.isAscii (vhtString cfg w) := by
  have hsgi : Str.isAscii cfg.lblSgi := h.2.2.1
  exact isAscii_append (isAscii_append (isAscii_append (isAscii_append (by decide) (isAscii_mcsNssString w))
    (isAscii_txexpString w)) (isAscii_bwString h w)) (isAscii_suffix hsgi)

theorem isAscii_erSuffix (w : Word) : Str.isAscii (erSuffix cfg w) :=
  isAscii_ite (isAscii_ite (by decide) (by decide)) isAscii_nil

theorem isAscii_heString (h : cfg.legal) (w : Word) : Str.isAscii (heString cfg w) := by
  have hdcm : Str.isAscii cfg.lblDcm := h.2.2.2.1
  exact isAscii_append (isAscii_append (isAscii_append (isAscii_append (isAscii_append (isAscii_append (by decide)
    (isAscii_mcsNssString w)) (isAscii_txexpString w)) (isAscii_bwString h w)) (isAscii_hegiLabel h _))
    (isAscii_suffix hdcm)) (isAscii_erSuffix w)

end

/-- Settles O35: every part of every string is ASCII, the labels by R34. -/
theorem displayStringsAreAscii : Obligations.DisplayStringsAreAscii := by
  intro w s h
  rw [exec_rspecDecode]
  cases ha : isAuto w with
  | true =>
    rw [decodeResponse_of_isAuto s.cfg ha]
    exact ⟨autoString, rfl, by decide⟩
  | false =>
    rw [decodeResponse_of_not_isAuto s.cfg ha]
    exact ⟨_, rfl, isAscii_ite (isAscii_legacyString w) (isAscii_ite (isAscii_htString h w)
      (isAscii_ite (isAscii_vhtString h w) (isAscii_heString h w)))⟩

end Sys2Proof.Machine
end

section

/-! The text grammar's primitives (R12, R160, R161) and the tokens of RSPEC.PARSETOK (R162). -/

namespace Sys2Proof.Machine

/-! ### Bytes -/

theorem isDigit_iff (b : Byte) : isDigit b = true ↔ 0x30 ≤ b.toNat ∧ b.toNat ≤ 0x39 := by
  simp [isDigit]

theorem isWs_iff (b : Byte) : isWs b = true ↔ b.toNat = 0x20 ∨ 0x09 ≤ b.toNat ∧ b.toNat ≤ 0x0D := by
  simp [isWs, ← BitVec.toNat_inj]

theorem isSign_iff (b : Byte) : isSign b = true ↔ b = 0x2B#8 ∨ b = 0x2D#8 := by simp [isSign]

/-- A digit is neither whitespace nor a sign. -/
theorem isWs_isSign_of_isDigit {b : Byte} (h : isDigit b = true) : isWs b = false ∧ isSign b = false := by
  rw [isDigit_iff] at h
  refine ⟨Bool.eq_false_iff.2 fun hw => ?_, Bool.eq_false_iff.2 fun hs => ?_⟩
  · rw [isWs_iff] at hw
    omega
  · obtain rfl | rfl := (isSign_iff b).1 hs <;> exact absurd h (by decide)

/-- Whitespace is neither a digit nor a sign. -/
theorem isDigit_isSign_of_isWs {b : Byte} (h : isWs b = true) : isDigit b = false ∧ isSign b = false := by
  refine ⟨Bool.eq_false_iff.2 fun hd => ?_, Bool.eq_false_iff.2 fun hs => ?_⟩
  · rw [(isWs_isSign_of_isDigit hd).1] at h
    cases h
  · obtain rfl | rfl := (isSign_iff b).1 hs <;> exact absurd h (by decide)

/-! ### Runs -/

/-- The string does not start with a byte of this kind. -/
def HeadNot (f : Byte → Bool) (r : Str) : Prop := ∀ b, r.head? = some b → f b = false

theorem headNot_nil (f : Byte → Bool) : HeadNot f [] := fun _ h => by cases h

theorem headNot_cons {f : Byte → Bool} {b : Byte} {r : Str} (h : f b = false) : HeadNot f (b :: r) := by
  rintro _ ⟨⟩
  exact h

/-- The start of a string that has a first byte is not changed by what follows. -/
theorem headNot_append {f : Byte → Bool} {l r : Str} (hl : ∀ b ∈ l, f b = false) (hr : HeadNot f r) :
    HeadNot f (l ++ r) := by
  cases l with
  | nil => exact hr
  | cons b l => exact headNot_cons (hl b (by simp))

theorem dropWhile_run {f : Byte → Bool} {ds r : Str} (hds : ∀ b ∈ ds, f b = true) (hr : HeadNot f r) :
    (ds ++ r).dropWhile f = r := by
  rw [List.dropWhile_append_of_pos hds]
  cases r with
  | nil => rfl
  | cons b r => exact List.dropWhile_cons_of_neg (by simp [hr b rfl])

theorem mem_takeWhile {f : Byte → Bool} {t : Str} {b : Byte} (h : b ∈ t.takeWhile f) : f b = true :=
  List.mem_takeWhile_imp h

/-- `D+` (R171). -/
theorem isDigits_iff (t : Str) : isDigits t = true ↔ t ≠ [] ∧ ∀ b ∈ t, isDigit b = true := by
  simp [isDigits]

/-- `D+ WS*` (R176). -/
theorem isDigitsWs_iff (t : Str) : isDigitsWs t = true ↔
    ∃ ds ws : Str, t = ds ++ ws ∧ ds ≠ [] ∧ (∀ b ∈ ds, isDigit b = true) ∧ ∀ b ∈ ws, isWs b = true := by
  constructor
  · intro h
    simp only [isDigitsWs, Bool.and_eq_true, Bool.not_eq_true', List.isEmpty_eq_false_iff, List.all_eq_true] at h
    exact ⟨_, _, (List.takeWhile_append_dropWhile).symm, h.1, fun _ => mem_takeWhile, h.2⟩
  · rintro ⟨ds, ws, rfl, hne, hds, hws⟩
    have hhead : HeadNot isDigit ws := by
      rw [← List.append_nil ws]
      exact headNot_append (fun b hb => (isDigit_isSign_of_isWs (hws b hb)).1) (headNot_nil _)
    simp only [isDigitsWs, takeWhile_run hds hhead, dropWhile_run hds hhead, Bool.and_eq_true, Bool.not_eq_true',
      List.isEmpty_eq_false_iff, List.all_eq_true]
    exact ⟨hne, hws⟩

/-! ### INT (R160) -/

theorem scanInt_run {ds r : Str} (hne : ds ≠ []) (hds : ∀ b ∈ ds, isDigit b = true) (hr : HeadNot isDigit r) :
    scanInt (ds ++ r) = some (digitsValue ds, r) := by
  rw [scanInt, takeWhile_run hds hr, dropWhile_run hds hr, if_neg (by simpa using hne)]

theorem scanInt_eq_none {t : Str} (h : HeadNot isDigit t) : scanInt t = none := by
  cases t with
  | nil => rfl
  | cons b t => simp [scanInt, h b rfl]

theorem scanInt_eq_some {t r : Str} {m : Nat} (h : scanInt t = some (m, r)) :
    ∃ ds : Str, t = ds ++ r ∧ ds ≠ [] ∧ (∀ b ∈ ds, isDigit b = true) ∧ digitsValue ds = m := by
  unfold scanInt at h
  split at h
  · cases h
  · rename_i hne
    cases h
    exact ⟨_, (List.takeWhile_append_dropWhile).symm, by simpa using hne, fun _ => mem_takeWhile, rfl⟩

/-! ### The checks of a token, in their order (R162) -/

section
variable {sep : Byte} {m n : Nat} {t : Str}

theorem tokNssOf_eq_valid {k : Nat} {u : Str} : tokNssOf m u = .valid k n ↔
    k = m ∧ ∃ d ws, u = d :: ws ∧ isDigit d = true ∧ digitVal d = n ∧ 1 ≤ n ∧ n ≤ 8 ∧ ∀ b ∈ ws, isWs b = true := by
  cases u with
  | nil => simp [tokNssOf]
  | cons d ws =>
    simp only [tokNssOf, Bool.not_eq_true', Bool.or_eq_true, decide_eq_true_eq, List.all_eq_true, List.cons.injEq]
    constructor
    · intro h
      split at h
      · cases h
      · split at h
        · cases h
        · split at h
          · rename_i hd hrange hws
            cases h
            exact ⟨rfl, d, ws, ⟨rfl, rfl⟩, by simpa using hd, rfl, by omega, by omega, hws⟩
          · cases h
    · rintro ⟨rfl, d, ws, ⟨rfl, rfl⟩, hd, rfl, h1, h8, hws⟩
      rw [if_neg (by simp [hd]), if_neg (by omega), if_pos hws]

theorem tokAfterInt_nil (hm : m ≤ 11) : tokAfterInt sep m [] = .invalid .tokSeparator := by
  simp [tokAfterInt, not_lt.2 hm]

theorem tokAfterInt_cons {x : Byte} {u : Str} (hm : m ≤ 11) :
    tokAfterInt sep m (x :: u) = if x = sep then tokNssOf m u else .invalid .tokSeparator := by
  simp only [tokAfterInt, not_lt.2 hm, if_false]

theorem tokAfterInt_eq_valid {k : Nat} {r : Str} : tokAfterInt sep m r = .valid k n ↔
    m ≤ 11 ∧ ∃ u, r = sep :: u ∧ tokNssOf m u = .valid k n := by
  unfold tokAfterInt
  split
  · rename_i hm
    simp [not_le.2 hm]
  · rename_i hm
    cases r with
    | nil => simp
    | cons x u => by_cases hx : x = sep <;> simp [hx, not_lt.1 hm]

theorem tokBody_unsettled {b : Byte} (hb : t.head? = some b) (h : isWs b = true ∨ isSign b = true) :
    tokBody sep t = .unsettled := by
  rw [tokBody, hb, if_pos (by simpa using h)]

/-- A body that starts otherwise is judged by its integer. -/
theorem tokBody_of_head (h : ∀ b, t.head? = some b → isWs b = false ∧ isSign b = false) :
    tokBody sep t = match scanInt t with
      | none => .invalid .tokNoInteger
      | some (m, r) => tokAfterInt sep m r := by
  have : (t.head?.any fun b => isWs b || isSign b) = false := by
    cases hb : t.head? with
    | none => rfl
    | some b => simp [h b hb]
  exact if_neg (by rw [this]; exact Bool.false_ne_true)

theorem tokBody_no_integer (h : ∀ b, t.head? = some b → isDigit b = false ∧ isWs b = false ∧ isSign b = false) :
    tokBody sep t = .invalid .tokNoInteger := by
  rw [tokBody_of_head fun b hb => (h b hb).2, scanInt_eq_none fun b hb => (h b hb).1]

theorem tokBody_run {ds r : Str} (hne : ds ≠ []) (hds : ∀ b ∈ ds, isDigit b = true) (hr : HeadNot isDigit r) :
    tokBody sep (ds ++ r) = tokAfterInt sep (digitsValue ds) r := by
  rw [tokBody_of_head, scanInt_run hne hds hr]
  intro b hb
  rw [List.head?_append_of_ne_nil _ hne] at hb
  exact isWs_isSign_of_isDigit (hds b (List.mem_of_head? hb))

/-- A body that is accepted is a run of digits, the separator, one digit and whitespace. -/
theorem tokBody_eq_valid (hsep : isDigit sep = false) : tokBody sep t = .valid m n ↔
    ∃ (ds ws : Str) (d : Byte), t = ds ++ sep :: d :: ws ∧ ds ≠ [] ∧ (∀ b ∈ ds, isDigit b = true) ∧
      digitsValue ds = m ∧ m ≤ 11 ∧ isDigit d = true ∧ digitVal d = n ∧ 1 ≤ n ∧ n ≤ 8 ∧ ∀ b ∈ ws, isWs b = true := by
  constructor
  · intro h
    unfold tokBody at h
    split at h
    · cases h
    · split at h
      · cases h
      · rename_i hscan
        obtain ⟨ds, rfl, hne, hds, hm⟩ := scanInt_eq_some hscan
        obtain ⟨hm11, u, rfl, hu⟩ := tokAfterInt_eq_valid.1 h
        obtain ⟨rfl, d, ws, rfl, hd, hn, h1, h8, hws⟩ := tokNssOf_eq_valid.1 hu
        exact ⟨ds, ws, d, rfl, hne, hds, hm, hm11, hd, hn, h1, h8, hws⟩
  · rintro ⟨ds, ws, d, rfl, hne, hds, rfl, hm11, hd, hn, h1, h8, hws⟩
    rw [tokBody_run hne hds (headNot_cons hsep)]
    exact tokAfterInt_eq_valid.2 ⟨hm11, _, rfl, tokNssOf_eq_valid.2 ⟨rfl, d, ws, rfl, hd, hn, h1, h8, hws⟩⟩

end

/-! ### The token -/

theorem ptok_of_c (t : Str) : ptok (0x63#8 :: t) = tokBody 0x73#8 t := rfl

theorem ptok_of_not_c {t : Str} (hne : t ≠ []) (h : t.head? ≠ some 0x63#8) : ptok t = tokBody 0x78#8 t := by
  cases t with
  | nil => exact absurd rfl hne
  | cons b t => exact if_neg fun hb => h (by simp [hb])

/-- A token that starts with a digit has no leading `c`. -/
theorem head?_ne_c_of_run {ds r : Str} (hne : ds ≠ []) (hds : ∀ b ∈ ds, isDigit b = true) :
    (ds ++ r).head? ≠ some 0x63#8 := by
  rw [List.head?_append_of_ne_nil _ hne]
  intro h
  exact absurd (hds _ (List.mem_of_head? h)) (by decide)

theorem digitsValue_append_one (ds : Str) (d : Byte) : digitsValue (ds ++ [d]) = 10 * digitsValue ds + (d.toNat - 0x30) := by
  simp [digitsValue, digitVal]

/-- Settles O37: the checks of `PTOK` read the grammar's parts off from the left, a run of digits ending where the
separator stands. -/
theorem acceptedTokensAreTheGrammar : Obligations.AcceptedTokensAreTheGrammar := by
  refine ⟨⟨by decide, isDigit_iff, by decide, fun _ => rfl, rfl, digitsValue_append_one⟩, fun t m n => ?_⟩
  constructor
  · intro h
    match t with
    | [] => cases h
    | b :: t =>
      by_cases hb : b = 0x63#8
      · subst hb
        obtain ⟨ds, ws, d, rfl, hrest⟩ := (tokBody_eq_valid (by decide)).1 (ptok_of_c t ▸ h)
        exact ⟨ds, ws, d, .inr rfl, hrest⟩
      · rw [ptok_of_not_c (by simp) (by simpa using hb)] at h
        obtain ⟨ds, ws, d, ht, hrest⟩ := (tokBody_eq_valid (by decide)).1 h
        exact ⟨ds, ws, d, .inl ht, hrest⟩
  · rintro ⟨ds, ws, d, rfl | rfl, hrest⟩
    · rw [ptok_of_not_c (by simp) (head?_ne_c_of_run hrest.1 hrest.2.1)]
      exact (tokBody_eq_valid (by decide)).2 ⟨ds, ws, d, rfl, hrest⟩
    · exact (tokBody_eq_valid (by decide)).2 ⟨ds, ws, d, rfl, hrest⟩

/-- Settles O38: each check of `PTOK` in its order, on a body that passes the ones before it. -/
theorem rejectedTokensNameTheFirstFault : Obligations.RejectedTokensNameTheFirstFault := by
  refine ⟨rfl, fun lead body sep hlead => ?_⟩
  have hbody : ptok (lead ++ body) = tokBody sep body := by
    obtain ⟨rfl, rfl⟩ | ⟨rfl, rfl, hne, hc⟩ := hlead
    · exact ptok_of_c body
    · exact ptok_of_not_c hne hc
  simp only [hbody]
  refine ⟨fun b hb h => tokBody_unsettled hb h, fun h => tokBody_no_integer fun b hb => by simpa using h b hb,
    fun ds rest hds hne hdig hrest => ?_⟩
  have hrun : tokBody sep body = tokAfterInt sep (digitsValue ds) rest := by
    rw [hds]
    exact tokBody_run hne hdig fun b hb => by simpa using hrest b hb
  simp only [hrun]
  refine ⟨fun hm => if_pos hm, fun hm hsep => ?_, fun u hm hu hnss => ?_, fun d u hm hu hd h1 h8 hws => ?_⟩
  · cases rest with
    | nil => rw [tokAfterInt_nil hm]
    | cons x u => rw [tokAfterInt_cons hm, if_neg fun hx => hsep (by simp [hx])]
  · rw [hu, tokAfterInt_cons hm, if_pos rfl]
    cases u with
    | nil => rfl
    | cons d u =>
      cases hd : isDigit d with
      | false => simp [tokNssOf, hd]
      | true =>
        have hrange := hnss d rfl hd
        simp only [tokNssOf, hd, Bool.not_true, Bool.false_eq_true, if_false]
        exact if_pos (by simpa using hrange)
  · rw [hu, tokAfterInt_cons hm, if_pos rfl]
    simp only [tokNssOf, hd, Bool.not_true, Bool.false_eq_true, if_false]
    rw [if_neg (by simp; omega), if_neg (by simpa using hws)]

end Sys2Proof.Machine
end

section

/-! The scan of RSPEC.PARSECMD (R172): one lemma per option, what every scan keeps, and the words it packs. -/

namespace Sys2Proof.Machine

/-! ### One argument in option position (R170, R171) -/

theorem optionOf_of_unimplemented {a : Str} (h : a ∈ unimplementedOptions) : optionOf a = .unimplemented :=
  if_pos (List.contains_iff_mem.2 h)

theorem optionOf_of_unknown {a : Str} (h : a ∉ [ascii "-r", ascii "-e", ascii "-i", ascii "-l"])
    (hu : a ∉ unimplementedOptions) : optionOf a = .unknown := by
  simp only [List.mem_cons, List.not_mem_nil, or_false, not_or] at h
  obtain ⟨hr, he, hi, hl⟩ := h
  simp [optionOf, hu, hr, he, hi, hl]

theorem optionOf_r : optionOf (ascii "-r") = .r := by decide
theorem optionOf_e : optionOf (ascii "-e") = .e := by decide
theorem optionOf_i : optionOf (ascii "-i") = .i := by decide
theorem optionOf_l : optionOf (ascii "-l") = .l := by decide

section
variable {st : CmdState} {a v : Str} {rest : List Str} {x : Response}

theorem cmdScan_unimplemented (h : optionOf a = .unimplemented) :
    cmdScan st (a :: rest) = .error (.refused .unimplementedOption) := by
  rw [cmdScan.eq_def]
  simp only [h]

theorem cmdScan_unknown (h : optionOf a = .unknown) :
    cmdScan st (a :: rest) = .error (.validation .cmdUnknownOption) := by
  rw [cmdScan.eq_def]
  simp only [h]

theorem cmdScan_l (h : st.seenL = false) : cmdScan st (ascii "-l" :: rest) = cmdScan { st with seenL := true } rest := by
  rw [cmdScan.eq_def]
  simp only [optionOf_l, h, Bool.false_eq_true, if_false]

/-- `-r` with its argument, in its place: the rate decides. -/
theorem cmdScan_r (hr : st.seenR = false) (he : st.seenE = false) :
    cmdScan st (ascii "-r" :: v :: rest) =
      (rate2Of v).bind fun r2 => cmdScan { st with rate2 := r2, seenR := true } rest := by
  rw [cmdScan.eq_def]
  simp only [optionOf_r, hr, he, Bool.false_eq_true, if_false]
  cases rate2Of v <;> rfl

/-- `-e` with its argument, in its place. -/
theorem cmdScan_e (hr : st.seenR = false) (he : st.seenE = false) :
    cmdScan st (ascii "-e" :: v :: rest) =
      (heArgOf v).bind fun mn => cmdScan { st with mcs := mn.1, nss := mn.2, seenE := true } rest := by
  rw [cmdScan.eq_def]
  simp only [optionOf_e, hr, he, Bool.false_eq_true, if_false]
  cases heArgOf v <;> rfl

/-- `-i` with its argument, in its place. -/
theorem cmdScan_i (hi : st.seenI = false) (he : st.seenE = true) :
    cmdScan st (ascii "-i" :: v :: rest) =
      (giOf v).bind fun g => cmdScan { st with gi := g, seenI := true } rest := by
  rw [cmdScan.eq_def]
  simp only [optionOf_i, hi, he, Bool.not_true, Bool.false_eq_true, if_false]
  cases giOf v <;> rfl

end

/-- Settles O45: the tests of each option before its argument is read, in the order of `cmdScan`. -/
theorem optionOrderRules : Obligations.OptionOrderRules := by
  refine ⟨fun st rest => ⟨fun hr he => ?_, fun he hr => ?_, fun hi he => ?_, fun hr => ?_, fun he => ?_, fun hi => ?_,
    fun hl => ?_, cmdScan_l, fun hr he => ⟨?_, ?_⟩, fun hi he => ?_, fun a h hu => ?_⟩, fun args st h hr he => ?_,
    fun args p st h hp => ?_⟩
  · rw [cmdScan.eq_def]
    simp [optionOf_e, hr, he]
  · rw [cmdScan.eq_def]
    simp [optionOf_r, hr, he]
  · rw [cmdScan.eq_def]
    simp [optionOf_i, hi, he]
  · rw [cmdScan.eq_def]
    simp [optionOf_r, hr]
  · rw [cmdScan.eq_def]
    simp [optionOf_e, he]
  · rw [cmdScan.eq_def]
    simp [optionOf_i, hi]
  · rw [cmdScan.eq_def]
    simp [optionOf_l, hl]
  · rw [cmdScan.eq_def]
    simp [optionOf_r, hr, he]
  · rw [cmdScan.eq_def]
    simp [optionOf_e, hr, he]
  · rw [cmdScan.eq_def]
    simp [optionOf_i, hi, he]
  · exact cmdScan_unknown (optionOf_of_unknown h hu)
  · simp [parseCmd, h, hr, he]
  · simp only [parseCmd, h] at hp
    split at hp
    · cases hp
    · cases hp
      unfold cmdParams
      split <;> rfl

/-! ### What every scan keeps -/

/-- A property of the parse state that every option keeps holds where the scan ends. -/
theorem cmdScan_keeps {I : CmdState → Prop} (hl : ∀ st, I st → I { st with seenL := true })
    (hr : ∀ st v r2, rate2Of v = .ok r2 → I st → I { st with rate2 := r2, seenR := true })
    (he : ∀ st v m n, heArgOf v = .ok (m, n) → I st → I { st with mcs := m, nss := n, seenE := true })
    (hi : ∀ st v g, giOf v = .ok g → I st → I { st with gi := g, seenI := true })
    {st st' : CmdState} {args : List Str} (hI : I st) (h : cmdScan st args = .ok st') : I st' := by
  fun_induction cmdScan st args with
  | case1 st =>
    cases h
    exact hI
  | case5 st a rest _ _ ih => exact ih (hl st hI) h
  | case10 st a _ _ _ v rest r2 hv ih => exact ih (hr st v r2 hv hI) h
  | case15 st a _ _ _ v rest m n hv ih => exact ih (he st v m n hv hI) h
  | case20 st a _ _ _ v rest g hv ih => exact ih (hi st v g hv hI) h
  | _ => cases h

/-- A failure of the text parsers: VALIDATION or REFUSED. -/
def Response.IsFailure (x : Response) : Prop := (∃ c, x = .validation c) ∨ ∃ c, x = .refused c

theorem isFailure_validation (c : ValidationCause) : (Response.validation c).IsFailure := .inl ⟨c, rfl⟩
theorem isFailure_refused (c : RefusedCause) : (Response.refused c).IsFailure := .inr ⟨c, rfl⟩

theorem rateInRange_isFailure {k : Nat} {x : Response} (h : rateInRange k = .error x) : x.IsFailure := by
  unfold rateInRange at h
  split at h <;> cases h
  exact isFailure_validation _

theorem rate2Of_isFailure {v : Str} {x : Response} (h : rate2Of v = .error x) : x.IsFailure := by
  unfold rate2Of at h
  split at h
  · exact rateInRange_isFailure h
  · split at h
    · exact rateInRange_isFailure h
    · split at h <;> cases h
      · exact isFailure_refused _
      · exact isFailure_validation _

theorem heArgOf_isFailure {v : Str} {x : Response} (h : heArgOf v = .error x) : x.IsFailure := by
  unfold heArgOf at h
  split at h
  · cases h
  · cases h
    exact isFailure_refused _
  · split at h
    · split at h <;> cases h
      exact isFailure_validation _
    · cases h
      exact isFailure_validation _

theorem giOf_isFailure {v : Str} {x : Response} (h : giOf v = .error x) : x.IsFailure := by
  unfold giOf at h
  split at h
  · split at h <;> cases h
    exact isFailure_validation _
  · split at h <;> cases h
    · exact isFailure_refused _
    · exact isFailure_validation _

theorem cmdScan_isFailure {st : CmdState} {args : List Str} {x : Response} (h : cmdScan st args = .error x) :
    x.IsFailure := by
  fun_induction cmdScan st args with
  | case1 => cases h
  | case5 st a rest _ _ ih => exact ih h
  | case9 st a _ _ _ v rest y hv =>
    cases h
    exact rate2Of_isFailure hv
  | case10 st a _ _ _ v rest r2 hv ih => exact ih h
  | case14 st a _ _ _ v rest y hv =>
    cases h
    exact heArgOf_isFailure hv
  | case15 st a _ _ _ v rest m n hv ih => exact ih h
  | case19 st a _ _ _ v rest y hv =>
    cases h
    exact giOf_isFailure hv
  | case20 st a _ _ _ v rest g hv ih => exact ih h
  | case2 | case4 | case6 | case11 | case16 =>
    cases h
    exact isFailure_refused _
  | _ =>
    cases h
    exact isFailure_validation _

/-! ### The command -/

theorem parseCmd_of_error {args : List Str} {x : Response} (h : cmdScan .init args = .error x) :
    parseCmd args = .error x := by rw [parseCmd, h]

theorem parseCmd_of_ok {args : List Str} {st : CmdState} (h : cmdScan .init args = .ok st)
    (hs : st.seenR = true ∨ st.seenE = true) : parseCmd args = .ok (cmdParams st) := by
  rw [parseCmd, h]
  obtain hs | hs := hs <;> simp [hs]

theorem parseCmd_eq_ok {args : List Str} {p : RsParams} (h : parseCmd args = .ok p) :
    ∃ st, cmdScan .init args = .ok st ∧ p = cmdParams st := by
  unfold parseCmd at h
  split at h
  · cases h
  · split at h <;> cases h
    exact ⟨_, ‹_›, rfl⟩

theorem parseCmd_isFailure {args : List Str} {x : Response} (h : parseCmd args = .error x) : x.IsFailure := by
  unfold parseCmd at h
  split at h
  · cases h
    exact cmdScan_isFailure ‹_›
  · split at h <;> cases h
    exact isFailure_validation _

section
variable (st : CmdState)

theorem cmdParams_of_r (h : st.seenR = true) :
    cmdParams st = { RsParams.zero with enc := .legacy, rate := BitVec.ofNat 7 st.rate2, ldpc := st.seenL } := if_pos h

theorem cmdParams_of_not_r (h : st.seenR = false) :
    cmdParams st = { RsParams.zero with
      enc := .he, mcs := BitVec.ofNat 4 st.mcs, nss := BitVec.ofNat 4 st.nss, heGi := BitVec.ofNat 2 st.gi,
      ldpc := st.seenL } := if_neg (by simp [h])

end

theorem exec_rspecParsecmd (args : List Str) (s : State) :
    exec (.rspecParsecmd args) s = .next (s.respond (cmdResponse s.cfg args)) := rfl

theorem cmdResponse_of_error (cfg : Cfg) {args : List Str} {x : Response} (h : cmdScan .init args = .error x) :
    cmdResponse cfg args = x := by rw [cmdResponse, parseCmd_of_error h]

theorem cmdResponse_of_ok (cfg : Cfg) {args : List Str} {st : CmdState} (h : cmdScan .init args = .ok st)
    (hs : st.seenR = true ∨ st.seenE = true) : cmdResponse cfg args = .ok (.word (pack cfg (cmdParams st))) := by
  rw [cmdResponse, parseCmd_of_ok h hs]

/-- Settles O36: the parsers' answers are their responses. -/
theorem textParsersComplete : Obligations.TextParsersComplete := by
  refine ⟨fun t s => ?_, fun args s => ?_⟩
  · change Host.Outcome.next (s.respond (tokResponse (ptok t))) = _
    cases ptok t <;> rfl
  · rw [exec_rspecParsecmd, cmdResponse]
    cases parseCmd args <;> rfl

/-! ### The ranges of what a scan sets (R175 to R177) -/

theorem ptok_valid_bounds {t : Str} {m n : Nat} (h : ptok t = .valid m n) : m ≤ 11 ∧ 1 ≤ n ∧ n ≤ 8 := by
  obtain ⟨ds, ws, d, -, -, -, -, hm, -, -, h1, h8, -⟩ := (acceptedTokensAreTheGrammar.2 t m n).1 h
  exact ⟨hm, h1, h8⟩

/-- The MCS and NSS of `-e`, and before it, are ones that R123 allows for HE. -/
def CmdState.InRange (st : CmdState) : Prop := st.mcs ≤ 11 ∧ ((1 ≤ st.nss ∧ st.nss ≤ 8) ∨ st.nss = 15)

theorem heArgOf_inRange {v : Str} {m n : Nat} (h : heArgOf v = .ok (m, n)) : m ≤ 11 ∧ ((1 ≤ n ∧ n ≤ 8) ∨ n = 15) := by
  unfold heArgOf at h
  split at h
  · rename_i hv
    cases h
    obtain ⟨hm, hn⟩ := ptok_valid_bounds hv
    exact ⟨hm, .inl hn⟩
  · cases h
  · split at h
    · split at h
      · cases h
      · rename_i hm
        cases h
        exact ⟨not_lt.1 hm, .inr rfl⟩
    · cases h

theorem cmdScan_inRange {args : List Str} {st : CmdState} (h : cmdScan .init args = .ok st) : st.InRange :=
  cmdScan_keeps (I := CmdState.InRange) (fun _ hI => hI) (fun _ _ _ _ hI => hI)
    (fun _ _ _ _ hv _ => heArgOf_inRange hv) (fun _ _ _ _ hI => hI) ⟨by decide, by decide⟩ h

/-- Settles O39: a scan keeps the MCS and NSS in range, and sets nothing else that R123 restricts. -/
theorem commandsMeetThePrecondition : Obligations.CommandsMeetThePrecondition := by
  intro args p h
  obtain ⟨st, hst, rfl⟩ := parseCmd_eq_ok h
  obtain ⟨hm, hn⟩ := cmdScan_inRange hst
  cases hr : st.seenR with
  | true =>
    rw [cmdParams_of_r st hr]
    exact ⟨⟨by simp, by simp, fun _ => ⟨rfl, rfl, rfl, rfl⟩, by simp⟩, .inl rfl⟩
  | false =>
    rw [cmdParams_of_not_r st hr]
    refine ⟨⟨by simp, fun _ => ?_, by simp, fun _ => rfl⟩, .inr rfl⟩
    simp only [BitVec.toNat_ofNat]
    omega

/-- Settles O40: the record that a scan gives is zero in these operands, and `PACK` places them. -/
theorem commandWordsLeaveFieldsZero : Obligations.CommandWordsLeaveFieldsZero := by
  intro args s t w h hw
  rw [exec_rspecParsecmd] at h
  cases h
  cases hp : parseCmd args with
  | error x =>
    rw [State.respond_response, cmdResponse, hp] at hw
    obtain ⟨c, rfl⟩ | ⟨c, rfl⟩ := parseCmd_isFailure hp <;> cases hw
  | ok p =>
    rw [State.respond_response, cmdResponse, hp] at hw
    cases hw
    obtain ⟨st, -, rfl⟩ := parseCmd_eq_ok hp
    have hpack := packed_pack s.cfg (cmdParams st)
    cases hr : st.seenR with
    | true =>
      rw [cmdParams_of_r st hr] at hpack ⊢
      obtain ⟨-, hdcm, her, htone⟩ := hpack.notHe (by simp)
      exact ⟨hpack.txexp, hpack.bw, hpack.stbc, hpack.sgi, hdcm, her, htone⟩
    | false =>
      rw [cmdParams_of_not_r st hr] at hpack ⊢
      obtain ⟨-, hdcm, her, htone⟩ := hpack.he rfl
      exact ⟨hpack.txexp, hpack.bw, hpack.stbc, hpack.sgi, hdcm, her, htone⟩

/-! ### The packed word of a command -/

/-- A field placed above a value adds its weight. -/
theorem toNat_or_place {w n lo : Nat} {a : BitVec w} (v : BitVec n) (ha : a.toNat < 2 ^ lo) (h : lo + n ≤ w) :
    (a ||| place w v lo).toNat = a.toNat + v.toNat * 2 ^ lo := by
  have hv : v.toNat * 2 ^ lo < 2 ^ w := calc
    v.toNat * 2 ^ lo < 2 ^ n * 2 ^ lo := Nat.mul_lt_mul_of_pos_right v.isLt (by positivity)
    _ = 2 ^ (lo + n) := by rw [← pow_add, Nat.add_comm]
    _ ≤ 2 ^ w := Nat.pow_le_pow_right (by decide) h
  have hplace : (place w v lo).toNat = v.toNat <<< lo := by
    rw [place, BitVec.toNat_shiftLeft, BitVec.toNat_setWidth_of_le (by omega), Nat.shiftLeft_eq, Nat.mod_eq_of_lt hv]
  rw [BitVec.toNat_or, hplace, Nat.or_comm, ← Nat.shiftLeft_add_eq_or_of_lt ha, Nat.shiftLeft_eq, Nat.add_comm]

end Sys2Proof.Machine
end

section

/-! The arguments of `-r`, `-e` and `-i` (R175 to R177): their grammars, and the words of the commands that have them. -/

namespace Sys2Proof.Machine

/-! ### A leading sign and whitespace (R161) -/

/-- An optional sign. -/
def OptSign (sg : Str) : Prop := sg = [] ∨ sg = ascii "+" ∨ sg = ascii "-"

theorem exists_optSign (t : Str) : ∃ sg, OptSign sg ∧ t = sg ++ dropSign t := by
  cases t with
  | nil => exact ⟨[], .inl rfl, rfl⟩
  | cons b t =>
    cases hb : isSign b with
    | false => exact ⟨[], .inl rfl, by simp [dropSign, hb]⟩
    | true =>
      refine ⟨[b], ?_, by simp [dropSign, hb]⟩
      obtain rfl | rfl := (isSign_iff b).1 hb
      · exact .inr (.inl rfl)
      · exact .inr (.inr rfl)

theorem dropSign_append {sg r : Str} (h : OptSign sg) (hr : HeadNot isSign r) : dropSign (sg ++ r) = r := by
  obtain rfl | rfl | rfl := h
  · cases r with
    | nil => rfl
    | cons b r => exact if_neg (by simp [hr b rfl])
  · rfl
  · rfl

theorem optSign_not_ws {sg : Str} (h : OptSign sg) : ∀ b ∈ sg, isWs b = false := by
  obtain rfl | rfl | rfl := h <;> decide

/-- Whitespace and a sign are stripped off a string that starts with neither. -/
theorem strip_append {ws sg r : Str} (hws : ∀ b ∈ ws, isWs b = true) (hsg : OptSign sg) (hr : HeadNot isWs r)
    (hr' : HeadNot isSign r) : dropSign ((ws ++ sg ++ r).dropWhile isWs) = r := by
  rw [List.append_assoc, dropWhile_run hws (headNot_append (optSign_not_ws hsg) hr), dropSign_append hsg hr']

/-- Every string is whitespace, an optional sign, and what is left after stripping them. -/
theorem exists_strip (a : Str) : ∃ ws sg : Str, (∀ b ∈ ws, isWs b = true) ∧ OptSign sg ∧
    a = ws ++ sg ++ dropSign (a.dropWhile isWs) := by
  obtain ⟨sg, hsg, h⟩ := exists_optSign (a.dropWhile isWs)
  refine ⟨a.takeWhile isWs, sg, fun _ => mem_takeWhile, hsg, ?_⟩
  rw [List.append_assoc, ← h, List.takeWhile_append_dropWhile]

/-- A run of digits starts with neither whitespace nor a sign. -/
theorem headNot_of_run {ds r : Str} (hne : ds ≠ []) (hds : ∀ b ∈ ds, isDigit b = true) :
    HeadNot isWs (ds ++ r) ∧ HeadNot isSign (ds ++ r) := by
  cases ds with
  | nil => exact absurd rfl hne
  | cons d ds =>
    obtain ⟨hw, hs⟩ := isWs_isSign_of_isDigit (hds d (by simp))
    exact ⟨headNot_cons hw, headNot_cons hs⟩

/-- A string of whitespace starts with no byte that is not. -/
theorem headNot_of_ws {f : Byte → Bool} {ws : Str} (hf : ∀ b, isWs b = true → f b = false)
    (h : ∀ b ∈ ws, isWs b = true) : HeadNot f ws := by
  rw [← List.append_nil ws]
  exact headNot_append (fun b hb => hf b (h b hb)) (headNot_nil f)

/-! ### The rate of `-r` (R175) -/

theorem isDigits_of_run {ds : Str} (hne : ds ≠ []) (hds : ∀ b ∈ ds, isDigit b = true) : isDigits ds = true :=
  (isDigits_iff ds).2 ⟨hne, hds⟩

theorem rateInRange_two_mul (v : Nat) :
    rateInRange (2 * v) = if v ≤ 63 then .ok (2 * v) else .error (.validation .cmdRange) := by
  by_cases h : v ≤ 63
  · rw [rateInRange, if_neg (by omega), if_pos h]
  · rw [rateInRange, if_pos (by omega), if_neg h]

theorem rateInRange_two_mul_add_one (v : Nat) :
    rateInRange (2 * v + 1) = if v ≤ 63 then .ok (2 * v + 1) else .error (.validation .cmdRange) := by
  by_cases h : v ≤ 63
  · rw [rateInRange, if_neg (by omega), if_pos h]
  · rw [rateInRange, if_pos (by omega), if_neg h]

section
variable {ds : Str} (hne : ds ≠ []) (hds : ∀ b ∈ ds, isDigit b = true)
include hne hds

theorem rate2Of_digits :
    rate2Of ds = if digitsValue ds ≤ 63 then .ok (2 * digitsValue ds) else .error (.validation .cmdRange) := by
  rw [rate2Of, if_pos (isDigits_of_run hne hds), rateInRange_two_mul]

theorem rate2Of_half :
    rate2Of (ds ++ ascii ".5") =
      if digitsValue ds ≤ 63 then .ok (2 * digitsValue ds + 1) else .error (.validation .cmdRange) := by
  have hdot : HeadNot isDigit (ascii ".5") := headNot_cons (by decide)
  have hnot : ¬ isDigits (ds ++ ascii ".5") = true := fun h =>
    absurd (((isDigits_iff _).1 h).2 0x2E#8 (List.mem_append_right _ (by decide))) (by decide)
  rw [rate2Of, if_neg hnot, takeWhile_run hds hdot, dropWhile_run hds hdot, if_pos (by simpa using hne),
    rateInRange_two_mul_add_one]

end

/-- An argument that is no rate. -/
theorem rate2Of_other {a : Str}
    (h : ¬ ∃ ds : Str, ds ≠ [] ∧ (∀ b ∈ ds, isDigit b = true) ∧ (a = ds ∨ a = ds ++ ascii ".5")) :
    rate2Of a = .error (if isDecimal a then .refused .unsettledForm else .validation .cmdMalformedArg) := by
  have hdigits : ¬ isDigits a = true := fun hd =>
    have ⟨hne, hds⟩ := (isDigits_iff a).1 hd
    h ⟨a, hne, hds, .inl rfl⟩
  have hhalf : ¬ (!(a.takeWhile isDigit).isEmpty && a.dropWhile isDigit == ascii ".5") = true := by
    intro hd
    simp only [Bool.and_eq_true, Bool.not_eq_true', List.isEmpty_eq_false_iff, beq_iff_eq] at hd
    refine h ⟨_, hd.1, fun _ => mem_takeWhile, .inr ?_⟩
    rw [← hd.2, List.takeWhile_append_dropWhile]
  rw [rate2Of, if_neg hdigits, if_neg hhalf]
  cases isDecimal a <;> rfl

/-! ### DECIMAL (R175) -/

/-- `D+ ("." D*)?` or `"." D+`. -/
def Mantissa (mant : Str) : Prop :=
  ∃ ip fp : Str, (∀ b ∈ ip, isDigit b = true) ∧ (∀ b ∈ fp, isDigit b = true) ∧
    ((ip ≠ [] ∧ mant = ip) ∨ (ip ≠ [] ∧ mant = ip ++ 0x2E#8 :: fp) ∨ (ip = [] ∧ fp ≠ [] ∧ mant = 0x2E#8 :: fp))

/-- `([eE] [+-]? D+)?`. -/
def Exponent (ex : Str) : Prop :=
  ex = [] ∨ ∃ (e : Byte) (sg ed : Str), ex = e :: (sg ++ ed) ∧ (e = 0x65#8 ∨ e = 0x45#8) ∧ OptSign sg ∧ ed ≠ [] ∧
    ∀ b ∈ ed, isDigit b = true

theorem afterMantissa_eq_some {t u : Str} (h : afterMantissa t = some u) : ∃ mant, Mantissa mant ∧ t = mant ++ u := by
  have ht : t = t.takeWhile isDigit ++ t.dropWhile isDigit := (List.takeWhile_append_dropWhile).symm
  have hip : ∀ b ∈ t.takeWhile isDigit, isDigit b = true := fun _ => mem_takeWhile
  unfold afterMantissa at h
  generalize t.takeWhile isDigit = ip at *
  generalize t.dropWhile isDigit = r at *
  subst ht
  split at h
  · rename_i hne
    cases h
    exact ⟨ip, ⟨ip, [], hip, by simp, .inl ⟨by simpa using hne, rfl⟩⟩, rfl⟩
  · rename_i b r hne
    split at h
    · rename_i hb
      cases h
      subst hb
      exact ⟨_, ⟨ip, r.takeWhile isDigit, hip, fun _ => mem_takeWhile, .inr (.inl ⟨by simpa using hne, rfl⟩)⟩, by simp⟩
    · cases h
      exact ⟨ip, ⟨ip, [], hip, by simp, .inl ⟨by simpa using hne, rfl⟩⟩, rfl⟩
  · cases h
  · rename_i b r hnil
    split at h
    · rename_i hb
      cases h
      simp only [Bool.and_eq_true, decide_eq_true_eq, Bool.not_eq_true', List.isEmpty_eq_false_iff] at hb
      obtain ⟨rfl, hfp⟩ := hb
      obtain rfl : ip = [] := by simpa using hnil
      exact ⟨_, ⟨[], r.takeWhile isDigit, by simp, fun _ => mem_takeWhile, .inr (.inr ⟨rfl, hfp, rfl⟩)⟩, by simp⟩
    · cases h

/-- The scan takes a whole mantissa where neither a digit nor a point follows. -/
theorem afterMantissa_append {mant u : Str} (h : Mantissa mant) (hu : HeadNot isDigit u) (hdot : u.head? ≠ some 0x2E#8) :
    afterMantissa (mant ++ u) = some u := by
  obtain ⟨ip, fp, hip, hfp, ⟨hne, rfl⟩ | ⟨hne, rfl⟩ | ⟨rfl, hne, rfl⟩⟩ := h
  · unfold afterMantissa
    rw [takeWhile_run hip hu, dropWhile_run hip hu, List.isEmpty_eq_false_iff.2 hne]
    cases u with
    | nil => rfl
    | cons b u => exact if_neg fun hb => hdot (by simp [hb])
  · have hpoint : HeadNot isDigit (0x2E#8 :: (fp ++ u)) := headNot_cons (by decide)
    unfold afterMantissa
    rw [List.append_assoc, List.cons_append, takeWhile_run hip hpoint, dropWhile_run hip hpoint,
      List.isEmpty_eq_false_iff.2 hne]
    simp only [if_true, dropWhile_run hfp hu]
  · have hpoint : HeadNot isDigit (0x2E#8 :: (fp ++ u)) := headNot_cons (by decide)
    unfold afterMantissa
    rw [List.cons_append, ← List.nil_append (_ :: _), takeWhile_run (by simp) hpoint, dropWhile_run (by simp) hpoint]
    simp only [List.isEmpty_nil, takeWhile_run hfp hu, dropWhile_run hfp hu, List.isEmpty_eq_false_iff.2 hne]
    rfl

theorem exists_exponent (u : Str) : ∃ ex, Exponent ex ∧ u = ex ++ afterExponent u := by
  cases u with
  | nil => exact ⟨[], .inl rfl, rfl⟩
  | cons e u =>
    rw [afterExponent]
    split
    · rename_i h
      simp only [Bool.and_eq_true, Bool.or_eq_true, decide_eq_true_eq, Bool.not_eq_true', List.isEmpty_eq_false_iff] at h
      obtain ⟨sg, hsg, hu⟩ := exists_optSign u
      refine ⟨_, .inr ⟨e, sg, (dropSign u).takeWhile isDigit, rfl, h.1, hsg, h.2, fun _ => mem_takeWhile⟩, ?_⟩
      rw [List.cons_append, List.append_assoc, List.takeWhile_append_dropWhile, ← hu]
    · exact ⟨[], .inl rfl, rfl⟩

/-- The scan takes a whole exponent where whitespace follows. -/
theorem afterExponent_append {ex ws : Str} (h : Exponent ex) (hws : ∀ b ∈ ws, isWs b = true) :
    afterExponent (ex ++ ws) = ws := by
  have hdigit : HeadNot isDigit ws := headNot_of_ws (fun _ h => (isDigit_isSign_of_isWs h).1) hws
  obtain rfl | ⟨e, sg, ed, rfl, he, hsg, hne, hed⟩ := h
  · cases ws with
    | nil => rfl
    | cons b ws =>
      have hb := hws b (by simp)
      refine if_neg fun hc => ?_
      simp only [Bool.and_eq_true, Bool.or_eq_true, decide_eq_true_eq] at hc
      obtain rfl | rfl := hc.1 <;> exact absurd hb (by decide)
  · have hdrop : dropSign (sg ++ ed ++ ws) = ed ++ ws := by
      rw [List.append_assoc]
      exact dropSign_append hsg (headNot_of_run hne hed).2
    rw [List.cons_append, afterExponent, hdrop, takeWhile_run hed hdigit, dropWhile_run hed hdigit]
    exact if_pos (by simpa [hne] using he)

/-- A mantissa starts with neither whitespace nor a sign. -/
theorem headNot_of_mantissa {mant r : Str} (h : Mantissa mant) :
    HeadNot isWs (mant ++ r) ∧ HeadNot isSign (mant ++ r) := by
  obtain ⟨ip, fp, hip, -, ⟨hne, rfl⟩ | ⟨hne, rfl⟩ | ⟨-, -, rfl⟩⟩ := h
  · exact headNot_of_run hne hip
  · rw [List.append_assoc]
    exact headNot_of_run hne hip
  · exact ⟨headNot_cons (by decide), headNot_cons (by decide)⟩

/-- What may follow a mantissa starts with neither a digit nor a point. -/
theorem headNot_of_exponent {ex ws : Str} (h : Exponent ex) (hws : ∀ b ∈ ws, isWs b = true) :
    HeadNot isDigit (ex ++ ws) ∧ (ex ++ ws).head? ≠ some 0x2E#8 := by
  obtain rfl | ⟨e, sg, ed, rfl, he, -⟩ := h
  · refine ⟨headNot_of_ws (fun _ h => (isDigit_isSign_of_isWs h).1) hws, fun hb => ?_⟩
    exact absurd (hws _ (List.mem_of_head? hb)) (by decide)
  · obtain rfl | rfl := he
    · exact ⟨headNot_cons (by decide), by simp⟩
    · exact ⟨headNot_cons (by decide), by simp⟩

/-- `DECIMAL` as a grammar: the scan takes each part whole, since no part starts with a byte that the one before it
takes. -/
theorem isDecimal_iff (a : Str) : isDecimal a = true ↔
    ∃ ws sg mant ex ws' : Str, a = ws ++ sg ++ mant ++ ex ++ ws' ∧ (∀ b ∈ ws, isWs b = true) ∧
      (∀ b ∈ ws', isWs b = true) ∧ OptSign sg ∧ Mantissa mant ∧ Exponent ex := by
  constructor
  · intro h
    obtain ⟨ws, sg, hws, hsg, ha⟩ := exists_strip a
    unfold isDecimal at h
    split at h
    · cases h
    · rename_i u hu
      obtain ⟨mant, hmant, hm⟩ := afterMantissa_eq_some hu
      obtain ⟨ex, hex, he⟩ := exists_exponent u
      refine ⟨ws, sg, mant, ex, afterExponent u, ?_, hws, by simpa using h, hsg, hmant, hex⟩
      rw [List.append_assoc _ ex, ← he, List.append_assoc _ mant, ← hm, ← ha]
  · rintro ⟨ws, sg, mant, ex, ws', rfl, hws, hws', hsg, hmant, hex⟩
    obtain ⟨hdigit, hdot⟩ := headNot_of_exponent hex hws'
    have hstart := headNot_of_mantissa (r := ex ++ ws') hmant
    have hstrip : dropSign ((ws ++ sg ++ mant ++ ex ++ ws').dropWhile isWs) = mant ++ (ex ++ ws') := by
      rw [List.append_assoc _ ex, List.append_assoc _ mant]
      exact strip_append hws hsg hstart.1 hstart.2
    simp only [isDecimal, hstrip, afterMantissa_append hmant hdigit hdot, afterExponent_append hex hws']
    simpa using hws'

/-- Settles O42: the grammar is the scan's, and an argument that is no rate is answered by it. -/
theorem decimalFormsAreTheGrammar : Obligations.DecimalFormsAreTheGrammar := by
  refine fun a => ⟨isDecimal_iff a, fun h => ?_⟩
  have hrate := rate2Of_other h
  have hscan (st : CmdState) (rest : List Str) (hr : st.seenR = false) (he : st.seenE = false) :
      cmdScan st (ascii "-r" :: a :: rest) =
        .error (if isDecimal a then .refused .unsettledForm else .validation .cmdMalformedArg) := by
    rw [cmdScan_r hr he, hrate]
    rfl
  exact ⟨hscan, fun rest s => by rw [exec_rspecParsecmd, cmdResponse_of_error _ (hscan .init rest rfl rfl)]⟩

end Sys2Proof.Machine
end

section

/-! The words and the refusals of commands with one rate option (R174 to R178). -/

namespace Sys2Proof.Machine

/-! ### The packed word of a command -/

@[simp] theorem place_zero (w n lo : Nat) : place w (0#n) lo = 0#w := by simp [place]

theorem flag_false : flag false = 0#1 := rfl

/-- The word of a Legacy command without `-l`. -/
theorem pack_legacy_command (cfg : Cfg) {r : Nat} (h : r ≤ 127) :
    pack cfg { RsParams.zero with enc := .legacy, rate := BitVec.ofNat 7 r, ldpc := false } = BitVec.ofNat 32 r := by
  have hparts (v : BitVec 7) : pack cfg { RsParams.zero with enc := .legacy, rate := v, ldpc := false } =
      0#32 ||| place 32 v 0 := by
    simp [pack, packRate, packShared, packHe, RsParams.zero, flag_false, RateEnc.code]
  refine BitVec.eq_of_toNat_eq ?_
  rw [hparts, toNat_or_place _ (by decide) (by decide)]
  simp only [BitVec.toNat_ofNat]
  omega

/-- The parts of the word of an HE command. -/
theorem pack_he_parts (cfg : Cfg) (m n : BitVec 4) (g : BitVec 2) (l : Bool) :
    pack cfg { RsParams.zero with enc := .he, mcs := m, nss := n, heGi := g, ldpc := l } =
      0#32 ||| place 32 m 0 ||| place 32 n 4 ||| place 32 g 10 ||| place 32 (flag l) 22 ||| place 32 3#2 24 := by
  change (place 32 m 0 ||| place 32 n 4) ||| (place 32 0#2 8 ||| place 32 0#3 16 ||| place 32 0#1 20 |||
    place 32 (flag l) 22 ||| place 32 0#1 23 ||| place 32 3#2 24) ||| (place 32 g 10 ||| place 32 0#1 14 |||
    place 32 0#1 15 ||| place 32 0#1 19) = _
  generalize place 32 m 0 = rate
  generalize place 32 n 4 = streams
  generalize place 32 (flag l) 22 = ldpc
  generalize place 32 3#2 24 = code
  generalize place 32 g 10 = gi
  simp only [place_zero, BitVec.or_zero, BitVec.zero_or]
  ac_rfl

/-- The word of an HE command: the weights of its fields added up. -/
theorem pack_he_command (cfg : Cfg) {m n g : Nat} (l : Bool) (hm : m < 16) (hn : n < 16) (hg : g < 4) :
    pack cfg { RsParams.zero with
      enc := .he, mcs := BitVec.ofNat 4 m, nss := BitVec.ofNat 4 n, heGi := BitVec.ofNat 2 g, ldpc := l } =
    BitVec.ofNat 32 (0x03000000 + 0x400000 * l.toNat + 1024 * g + 16 * n + m) := by
  have hl : (flag l).toNat = l.toNat := by cases l <;> rfl
  have hl' : l.toNat ≤ 1 := Bool.toNat_le l
  have hm' : (BitVec.ofNat 4 m).toNat = m := Nat.mod_eq_of_lt hm
  have hn' : (BitVec.ofNat 4 n).toNat = n := Nat.mod_eq_of_lt hn
  have hg' : (BitVec.ofNat 2 g).toNat = g := Nat.mod_eq_of_lt hg
  have h1 := toNat_or_place (a := 0#32) (BitVec.ofNat 4 m) (lo := 0) (by decide) (by decide)
  rw [hm', show (0#32).toNat = 0 from rfl] at h1
  have h2 := toNat_or_place (lo := 4) (BitVec.ofNat 4 n) (by rw [h1]; omega) (by decide)
  rw [hn', h1] at h2
  have h3 := toNat_or_place (lo := 10) (BitVec.ofNat 2 g) (by rw [h2]; omega) (by decide)
  rw [hg', h2] at h3
  have h4 := toNat_or_place (lo := 22) (flag l) (by rw [h3]; omega) (by decide)
  rw [hl, h3] at h4
  have h5 := toNat_or_place (lo := 24) 3#2 (by rw [h4]; omega) (by decide)
  rw [h4, show (3#2).toNat = 3 from rfl] at h5
  refine BitVec.eq_of_toNat_eq ?_
  rw [pack_he_parts, h5, BitVec.toNat_ofNat]
  omega

theorem giOf_lt {v : Str} {g : Nat} (h : giOf v = .ok g) : g < 4 := by
  unfold giOf at h
  split at h
  · split at h <;> cases h
    omega
  · split at h <;> cases h

theorem cmdScan_gi_lt {args : List Str} {st : CmdState} (h : cmdScan .init args = .ok st) : st.gi < 4 :=
  cmdScan_keeps (I := fun st => st.gi < 4) (fun _ hI => hI) (fun _ _ _ _ hI => hI) (fun _ _ _ _ _ hI => hI)
    (fun _ _ _ hv _ => giOf_lt hv) (by decide) h

section
variable {args : List Str} {st : CmdState} (s : State)

/-- The response to a command that scans to an HE record. -/
theorem exec_parsecmd_of_e (h : cmdScan .init args = .ok st) (hr : st.seenR = false) (he : st.seenE = true) :
    exec (.rspecParsecmd args) s = .next (s.respond (.ok (.word
      (BitVec.ofNat 32 (0x03000000 + 0x400000 * st.seenL.toNat + 1024 * st.gi + 16 * st.nss + st.mcs))))) := by
  obtain ⟨hm, hn⟩ := cmdScan_inRange h
  rw [exec_rspecParsecmd, cmdResponse_of_ok _ h (.inr he), cmdParams_of_not_r st hr,
    pack_he_command _ _ (by omega) (by omega) (cmdScan_gi_lt h)]

/-- The response to a command that scans to a Legacy record without `-l`. -/
theorem exec_parsecmd_of_r (h : cmdScan .init args = .ok st) (hr : st.seenR = true) (hl : st.seenL = false)
    (hrate : st.rate2 ≤ 127) :
    exec (.rspecParsecmd args) s = .next (s.respond (.ok (.word (BitVec.ofNat 32 st.rate2)))) := by
  rw [exec_rspecParsecmd, cmdResponse_of_ok _ h (.inl hr), cmdParams_of_r st hr, hl, pack_legacy_command _ hrate]

theorem exec_parsecmd_of_error {x : Response} (h : cmdScan .init args = .error x) :
    exec (.rspecParsecmd args) s = .next (s.respond x) := by
  rw [exec_rspecParsecmd, cmdResponse_of_error _ h]

end

/-! ### `-r` -/

section
variable {v : Str} {k r2 : Nat}

/-- `-r` with a rate: in range it is set, else the scan fails. -/
theorem cmdScan_r_of_rate (hv : rate2Of v = if k ≤ 63 then .ok r2 else .error (.validation .cmdRange)) {st : CmdState}
    (rest : List Str) (hr : st.seenR = false) (he : st.seenE = false) :
    cmdScan st (ascii "-r" :: v :: rest) =
      if k ≤ 63 then cmdScan { st with rate2 := r2, seenR := true } rest else .error (.validation .cmdRange) := by
  rw [cmdScan_r hr he, hv]
  split <;> rfl

/-- The command of `-r` alone. -/
theorem exec_parsecmd_r (hv : rate2Of v = if k ≤ 63 then .ok r2 else .error (.validation .cmdRange))
    (hbound : k ≤ 63 → r2 ≤ 127) (s : State) :
    exec (.rspecParsecmd [ascii "-r", v]) s =
      .next (s.respond (if k ≤ 63 then .ok (.word (BitVec.ofNat 32 r2)) else .validation .cmdRange)) := by
  have hscan := cmdScan_r_of_rate hv (st := .init) [] rfl rfl
  by_cases hk : k ≤ 63
  · rw [if_pos hk] at hscan ⊢
    exact exec_parsecmd_of_r (st := { CmdState.init with rate2 := r2, seenR := true }) s hscan rfl rfl (hbound hk)
  · rw [if_neg hk] at hscan ⊢
    exact exec_parsecmd_of_error s hscan

end

/-- Settles O41: both forms of a rate are twice it, and 63 is the last whole rate whose double fits seven bits. -/
theorem rateOptionScalesByTwo : Obligations.RateOptionScalesByTwo := by
  intro ds hne hds
  have hwhole := rate2Of_digits hne hds
  have hhalf := rate2Of_half hne hds
  refine ⟨fun st rest hr he => ⟨cmdScan_r_of_rate hwhole rest hr he, cmdScan_r_of_rate hhalf rest hr he⟩,
    fun st hr => ?_, fun s => ⟨exec_parsecmd_r hwhole (by omega) s, exec_parsecmd_r hhalf (by omega) s⟩⟩
  rw [cmdParams_of_r st hr]
  exact ⟨rfl, rfl⟩

/-! ### `-e` (R176) -/

/-- A bare integer, with whitespace after it, is no token. -/
theorem ptok_of_bare {ds ws : Str} (hne : ds ≠ []) (hds : ∀ b ∈ ds, isDigit b = true) (hws : ∀ b ∈ ws, isWs b = true) :
    ∃ c, ptok (ds ++ ws) = .invalid c := by
  rw [ptok_of_not_c (by simp [hne]) (head?_ne_c_of_run hne hds),
    tokBody_run hne hds (headNot_of_ws (fun _ h => (isDigit_isSign_of_isWs h).1) hws)]
  by_cases hm : digitsValue ds ≤ 11
  · cases ws with
    | nil => exact ⟨_, tokAfterInt_nil hm⟩
    | cons b ws =>
      have hb : b ≠ 0x78#8 := by
        rintro rfl
        exact absurd (hws 0x78#8 (by simp)) (by decide)
      exact ⟨_, by rw [tokAfterInt_cons hm, if_neg hb]⟩
  · exact ⟨_, if_pos (not_le.1 hm)⟩

theorem heArgOf_of_valid {a : Str} {m n : Nat} (h : ptok a = .valid m n) : heArgOf a = .ok (m, n) := by
  rw [heArgOf, h]

theorem heArgOf_of_unsettled {a : Str} (h : ptok a = .unsettled) : heArgOf a = .error (.refused .unsettledForm) := by
  rw [heArgOf, h]

theorem heArgOf_of_bare {ds ws : Str} (hne : ds ≠ []) (hds : ∀ b ∈ ds, isDigit b = true)
    (hws : ∀ b ∈ ws, isWs b = true) :
    heArgOf (ds ++ ws) =
      if 11 < digitsValue ds then .error (.validation .cmdRange) else .ok (digitsValue ds, 15) := by
  obtain ⟨c, hc⟩ := ptok_of_bare hne hds hws
  have hform : isDigitsWs (ds ++ ws) = true := (isDigitsWs_iff _).2 ⟨ds, ws, rfl, hne, hds, hws⟩
  have hrun := takeWhile_run hds (headNot_of_ws (fun _ h => (isDigit_isSign_of_isWs h).1) hws)
  simp only [heArgOf, hc, hform, if_true, hrun]

theorem heArgOf_of_malformed {a : Str} {c : ValidationCause} (hc : ptok a = .invalid c)
    (h : ¬ ∃ ds ws : Str, a = ds ++ ws ∧ ds ≠ [] ∧ (∀ b ∈ ds, isDigit b = true) ∧ ∀ b ∈ ws, isWs b = true) :
    heArgOf a = .error (.validation .cmdMalformedArg) := by
  simp only [heArgOf, hc, mt (isDigitsWs_iff a).1 h, Bool.false_eq_true, if_false]

section
variable {a : Str} {m n : Nat} {x : Response}

theorem cmdScan_e_of_ok (hv : heArgOf a = .ok (m, n)) {st : CmdState} (rest : List Str) (hr : st.seenR = false)
    (he : st.seenE = false) :
    cmdScan st (ascii "-e" :: a :: rest) = cmdScan { st with mcs := m, nss := n, seenE := true } rest := by
  rw [cmdScan_e hr he, hv]
  rfl

theorem cmdScan_e_of_error (hv : heArgOf a = .error x) {st : CmdState} (rest : List Str) (hr : st.seenR = false)
    (he : st.seenE = false) : cmdScan st (ascii "-e" :: a :: rest) = .error x := by
  rw [cmdScan_e hr he, hv]
  rfl

/-- The command of `-e` alone. -/
theorem exec_parsecmd_e (hv : heArgOf a = .ok (m, n)) (s : State) :
    exec (.rspecParsecmd [ascii "-e", a]) s =
      .next (s.respond (.ok (.word (BitVec.ofNat 32 (0x03000000 + 16 * n + m))))) :=
  exec_parsecmd_of_e s (cmdScan_e_of_ok hv [] rfl rfl) rfl rfl

/-- The commands of `-e` with `-l` before or after it. -/
theorem exec_parsecmd_e_l (hv : heArgOf a = .ok (m, n)) (s : State) :
    exec (.rspecParsecmd [ascii "-l", ascii "-e", a]) s =
      .next (s.respond (.ok (.word (BitVec.ofNat 32 (0x03400000 + 16 * n + m))))) ∧
    exec (.rspecParsecmd [ascii "-e", a, ascii "-l"]) s =
      .next (s.respond (.ok (.word (BitVec.ofNat 32 (0x03400000 + 16 * n + m))))) := by
  have hbefore := (cmdScan_l (st := .init) rfl).trans (cmdScan_e_of_ok hv [] rfl rfl)
  have hafter := (cmdScan_e_of_ok hv (st := .init) [ascii "-l"] rfl rfl).trans (cmdScan_l rfl)
  rw [exec_parsecmd_of_e s hbefore rfl rfl, exec_parsecmd_of_e s hafter rfl rfl]
  have hweights : 0x03000000 + 0x400000 * true.toNat + 1024 * 0 + 16 * n + m = 0x03400000 + 16 * n + m := by
    rw [Bool.toNat_true]
  rw [← hweights]
  exact ⟨rfl, rfl⟩

end

/-- Settles O43: `HEARG` judges a token first, and a bare integer is never one. -/
theorem heOptionTakesTokensAndBareIntegers : Obligations.HeOptionTakesTokensAndBareIntegers := by
  refine ⟨fun st a rest hr he => ⟨fun m n h => ?_, fun h => ?_, fun ds ws ha hne hds hws => ?_, fun c hc h => ?_⟩,
    fun st hr => ?_, fun a m n s h => ?_, fun a s => ⟨fun m n h => ?_, fun h => ?_, fun ds ws ha hne hds hws => ?_,
      fun c hc h => ?_⟩⟩
  · exact cmdScan_e_of_ok (heArgOf_of_valid h) rest hr he
  · exact cmdScan_e_of_error (heArgOf_of_unsettled h) rest hr he
  · rw [ha, cmdScan_e hr he, heArgOf_of_bare hne hds hws]
    split <;> rfl
  · exact cmdScan_e_of_error (heArgOf_of_malformed hc h) rest hr he
  · rw [cmdParams_of_not_r st hr]
    exact ⟨rfl, rfl, rfl, rfl⟩
  · obtain h | ⟨⟨ds, ws, rfl, hne, hds, hws, rfl⟩, hm, rfl⟩ := h
    · exact exec_parsecmd_e_l (heArgOf_of_valid h) s
    · exact exec_parsecmd_e_l ((heArgOf_of_bare hne hds hws).trans (if_neg (not_lt.2 hm))) s
  · exact exec_parsecmd_e (heArgOf_of_valid h) s
  · exact exec_parsecmd_of_error s (cmdScan_e_of_error (heArgOf_of_unsettled h) [] rfl rfl)
  · subst ha
    have hv := heArgOf_of_bare hne hds hws
    split
    · rename_i hm
      exact exec_parsecmd_of_error s (cmdScan_e_of_error (hv.trans (if_pos hm)) [] rfl rfl)
    · rename_i hm
      exact exec_parsecmd_e (hv.trans (if_neg hm)) s
  · exact exec_parsecmd_of_error s (cmdScan_e_of_error (heArgOf_of_malformed hc h) [] rfl rfl)

/-! ### `-i` (R177) -/

theorem giOf_digits {ds : Str} (hne : ds ≠ []) (hds : ∀ b ∈ ds, isDigit b = true) :
    giOf ds = if 3 < digitsValue ds then .error (.validation .cmdRange) else .ok (digitsValue ds) := by
  rw [giOf, if_pos (isDigits_of_run hne hds)]

/-- An argument that is not digits is unsettled exactly where digits stand in it between whitespace. -/
theorem giOf_of_not_digits {a : Str} (h : ¬ isDigits a = true) :
    giOf a = .error (if isDigitsWs (dropSign (a.dropWhile isWs)) then .refused .unsettledForm
      else .validation .cmdMalformedArg) := by
  rw [giOf, if_neg h]
  split <;> rfl

theorem isDigitsWs_strip_iff (a : Str) : isDigitsWs (dropSign (a.dropWhile isWs)) = true ↔
    ∃ ws sg ds ws' : Str, a = ws ++ sg ++ ds ++ ws' ∧ (∀ b ∈ ws, isWs b = true) ∧ OptSign sg ∧ ds ≠ [] ∧
      (∀ b ∈ ds, isDigit b = true) ∧ ∀ b ∈ ws', isWs b = true := by
  constructor
  · intro h
    obtain ⟨ws, sg, hws, hsg, ha⟩ := exists_strip a
    obtain ⟨ds, ws', hstrip, hne, hds, hws'⟩ := (isDigitsWs_iff _).1 h
    exact ⟨ws, sg, ds, ws', by rw [List.append_assoc _ ds, ← hstrip]; exact ha, hws, hsg, hne, hds, hws'⟩
  · rintro ⟨ws, sg, ds, ws', rfl, hws, hsg, hne, hds, hws'⟩
    obtain ⟨hstart, hstart'⟩ := headNot_of_run (r := ws') hne hds
    rw [List.append_assoc _ ds, strip_append hws hsg hstart hstart']
    exact (isDigitsWs_iff _).2 ⟨ds, ws', rfl, hne, hds, hws'⟩

theorem optSign_not_digit {sg : Str} (h : OptSign sg) : ∀ b ∈ sg, isDigit b = false := by
  obtain rfl | rfl | rfl := h <;> decide

/-- A string with a sign or whitespace in it is not digits. -/
theorem not_isDigits_of_extra {ws sg ds ws' : Str} (hws : ∀ b ∈ ws, isWs b = true) (hsg : OptSign sg)
    (hws' : ∀ b ∈ ws', isWs b = true) (h : ws ≠ [] ∨ sg ≠ [] ∨ ws' ≠ []) : ¬ isDigits (ws ++ sg ++ ds ++ ws') = true := by
  intro hd
  have hall := ((isDigits_iff _).1 hd).2
  have hno : ∀ b ∈ ws ++ sg ++ ws', isDigit b = false := by
    intro b hb
    obtain hb | hb := List.mem_append.1 hb
    · obtain hb | hb := List.mem_append.1 hb
      · exact (isDigit_isSign_of_isWs (hws b hb)).1
      · exact optSign_not_digit hsg b hb
    · exact (isDigit_isSign_of_isWs (hws' b hb)).1
  have hne : ws ++ sg ++ ws' ≠ [] := by
    obtain h | h | h := h <;> simp [h]
  obtain ⟨b, hb⟩ := List.exists_mem_of_ne_nil _ hne
  have hb' : b ∈ ws ++ sg ++ ds ++ ws' := by
    simp only [List.mem_append] at hb ⊢
    tauto
  exact absurd (hall b hb') (by simp [hno b hb])

/-- The command of `-e` and `-i`. -/
theorem exec_parsecmd_e_i {a ds : Str} {m n : Nat} (hv : heArgOf a = .ok (m, n)) (hne : ds ≠ [])
    (hds : ∀ b ∈ ds, isDigit b = true) (s : State) :
    exec (.rspecParsecmd [ascii "-e", a, ascii "-i", ds]) s = .next (s.respond
      (if 3 < digitsValue ds then .validation .cmdRange
       else .ok (.word (BitVec.ofNat 32 (0x03000000 + 1024 * digitsValue ds + 16 * n + m))))) := by
  have hscan : cmdScan .init [ascii "-e", a, ascii "-i", ds] = _ :=
    (cmdScan_e_of_ok hv _ rfl rfl).trans (cmdScan_i rfl rfl)
  rw [giOf_digits hne hds] at hscan
  split
  · rename_i hg
    rw [if_pos hg] at hscan
    exact exec_parsecmd_of_error s hscan
  · rename_i hg
    rw [if_neg hg] at hscan
    exact exec_parsecmd_of_e s hscan rfl rfl

/-- Settles O44: the three forms of `GI`, and the word of a command that sets it. -/
theorem giOptionSetsTheCode : Obligations.GiOptionSetsTheCode := by
  refine ⟨fun st rest hi he => ⟨fun ds hne hds => ?_, fun ws sg ds ws' hws hsg hne hds hws' hextra => ?_, fun a h => ?_⟩,
    fun st hr => ?_, fun tok ds m n s h hne hds => exec_parsecmd_e_i (heArgOf_of_valid h) hne hds s,
    fun ms ws ds s hm hms hrange hws hne hds => ?_⟩
  · rw [cmdScan_i hi he, giOf_digits hne hds]
    split <;> rfl
  · rw [cmdScan_i hi he, giOf_of_not_digits (not_isDigits_of_extra hws hsg hws' hextra),
      if_pos ((isDigitsWs_strip_iff _).2 ⟨ws, sg, ds, ws', rfl, hws, hsg, hne, hds, hws'⟩)]
    rfl
  · have hdigits : ¬ isDigits a = true := fun hd =>
      have ⟨hne, hds⟩ := (isDigits_iff a).1 hd
      h ⟨[], [], a, [], by simp, by simp, .inl rfl, hne, hds, by simp⟩
    rw [cmdScan_i hi he, giOf_of_not_digits hdigits, if_neg (mt (isDigitsWs_strip_iff a).1 h)]
    rfl
  · rw [cmdParams_of_not_r st hr]
    exact ⟨rfl, rfl⟩
  · have hv := (heArgOf_of_bare hm hms hws).trans (if_neg (not_lt.2 hrange))
    rw [exec_parsecmd_e_i hv hne hds s]
    congr 6
    omega

/-! ### The unimplemented options (R178) -/

/-- Settles O46: in option position the eleven spellings are recognised before the four; as arguments each starts with a
sign and has no digits. -/
theorem unimplementedOptionsRefused : Obligations.UnimplementedOptionsRefused := by
  intro st a rest ha
  have ha' : a ∈ unimplementedOptions := ha
  have hrate : ∀ a ∈ unimplementedOptions, rate2Of a = .error (.validation .cmdMalformedArg) := by decide
  have hhe : ∀ a ∈ unimplementedOptions, heArgOf a = .error (.refused .unsettledForm) := by decide
  have hgi : ∀ a ∈ unimplementedOptions, giOf a = .error (.validation .cmdMalformedArg) := by decide
  refine ⟨cmdScan_unimplemented (optionOf_of_unimplemented ha'), fun hr he => ⟨?_, cmdScan_e_of_error (hhe a ha') rest hr he⟩,
    fun hi he => ?_⟩
  · rw [cmdScan_r hr he, hrate a ha']
    rfl
  · rw [cmdScan_i hi he, hgi a ha']
    rfl

end Sys2Proof.Machine
end

section

/-! The TWT octets' decompositions and the profiles (R202, R220, R251). -/

namespace Sys2Proof.Machine

/-! ### The octets -/

/-- R201's negotiation type of a two-bit code. -/
def negoType (c : BitVec 2) : Nego :=
  if c = 0#2 then .individual else if c = 1#2 then .wakeTbtt else if c = 2#2 then .broadcastInBeacon
  else .broadcastMembership

/-- R201 gives every two-bit code a type and keeps the flow id for codes 0 and 3. -/
theorem nego_toNat (c : BitVec 2) (fid : BitVec 3) :
    nego c.toNat fid = some (negoType c, if c = 0#2 ∨ c = 3#2 then fid else 0) :=
  match c with
  | 0#2 | 1#2 | 2#2 | 3#2 => rfl

/-- R202: the response of TWT.CTRLMAP, for every octet. -/
theorem ctrlResponse_eq (o : Byte) : ctrlResponse o = .ok (.ctrl
    { ndpPaging := o.getLsbD 0, respPm := o.getLsbD 1, negoCode := field o 2 2, nego := negoType (field o 2 2),
      infoFrameDisabled := o.getLsbD 4, wakeDurUnit := o.getLsbD 5, reserved := field o 6 2 }) := by
  rw [ctrlResponse, ctrlOf, nego_toNat]
  rfl

/-- R220: the response of TWT.TDMAP, for every octet. -/
theorem tdResponse_eq (f : Byte) : tdResponse f = .ok (.td
    { flowIdRaw := field f 0 3, reserved := field f 3 2, negoCode := field f 5 2, nego := negoType (field f 5 2),
      flowId := if field f 5 2 = 0#2 ∨ field f 5 2 = 3#2 then field f 0 3 else 0, all := f.getLsbD 7 }) := by
  rw [tdResponse, tdOf, nego_toNat]
  rfl

section
variable {o : Byte} {x : Response} (s : State)

theorem exec_twtCtrlmap (h : ctrlResponse o = x) : exec (.twtCtrlmap o) s = .next (s.respond x) := by
  subst h
  rfl

theorem exec_twtTdmap (h : tdResponse o = x) : exec (.twtTdmap o) s = .next (s.respond x) := by
  subst h
  rfl

end

/-- Settles O47: no octet fails, since every two-bit code has its type. -/
theorem ctrlmapDecomposesEveryOctet : Obligations.CtrlmapDecomposesEveryOctet := fun o s =>
  ⟨rfl, exec_twtCtrlmap s (ctrlResponse_eq o)⟩

/-- Settles O48: no octet fails, since every two-bit code has its type. -/
theorem tdmapDecomposesEveryOctet : Obligations.TdmapDecomposesEveryOctet := fun f s =>
  ⟨rfl, exec_twtTdmap s (tdResponse_eq f)⟩

/-! ### The octet classes -/

/-- R202 of an octet of a class, its free bits in their fields. -/
theorem ctrlResponse_ctrlOctetOf (hi : BitVec 4) (c lo : BitVec 2) : ctrlResponse (ctrlOctetOf hi c lo) = .ok (.ctrl
    { ndpPaging := lo.getLsbD 0, respPm := lo.getLsbD 1, negoCode := c, nego := negoType c,
      infoFrameDisabled := hi.getLsbD 0, wakeDurUnit := hi.getLsbD 1, reserved := field hi 2 2 }) := by
  obtain ⟨hhi, hc, hlo⟩ := ctrlOctetOf_fields hi c lo
  rw [ctrlResponse_eq, hc]
  generalize ctrlOctetOf hi c lo = o at hhi hlo
  subst hhi hlo
  simp [getElem_field, field_field]

/-- R220 of an octet of a class, its free bits in their fields. -/
theorem tdResponse_tdOctetOf (hi : BitVec 1) (c : BitVec 2) (lo : BitVec 5) : tdResponse (tdOctetOf hi c lo) = .ok (.td
    { flowIdRaw := field lo 0 3, reserved := field lo 3 2, negoCode := c, nego := negoType c,
      flowId := if c = 0#2 ∨ c = 3#2 then field lo 0 3 else 0, all := hi.getLsbD 0 }) := by
  obtain ⟨hhi, hc, hlo⟩ := tdOctetOf_fields hi c lo
  rw [tdResponse_eq, hc]
  generalize tdOctetOf hi c lo = f at hhi hlo
  subst hhi hlo
  simp [getElem_field, field_field]

/-- Settles O49: a row is its operation on an octet of its class. -/
theorem octetClassesComplete : Obligations.OctetClassesComplete := by
  constructor
  · intro hi lo i code n s h
    have hrun (c : BitVec 2) := exec_twtCtrlmap s (ctrlResponse_ctrlOctetOf hi c lo)
    simp only [List.mem_cons, List.not_mem_nil, or_false, Prod.mk.injEq] at h
    obtain ⟨rfl, rfl, rfl⟩ | ⟨rfl, rfl, rfl⟩ | ⟨rfl, rfl, rfl⟩ | ⟨rfl, rfl, rfl⟩ := h
    · exact hrun 0#2
    · exact hrun 1#2
    · exact hrun 2#2
    · exact hrun 3#2
  · intro hi lo i code n s h
    have hrun (c : BitVec 2) := exec_twtTdmap s (tdResponse_tdOctetOf hi c lo)
    simp only [List.mem_cons, List.not_mem_nil, or_false, Prod.mk.injEq] at h
    obtain ⟨rfl, rfl, rfl⟩ | ⟨rfl, rfl, rfl⟩ | ⟨rfl, rfl, rfl⟩ | ⟨rfl, rfl, rfl⟩ := h
    · exact hrun 0#2
    · exact hrun 1#2
    · exact hrun 2#2
    · exact hrun 3#2

/-! ### The profiles -/

section
variable {pr bd : Byte} (s : State)

theorem exec_twtProfile_of_reserved (h : 3 ≤ pr.toNat ∨ 3 ≤ bd.toNat) :
    exec (.twtProfile pr bd) s = .next (s.respond (.refused .reservedValue)) := by
  have : profileSelection pr bd = none := if_pos (by simpa using h)
  change execTwtProfile pr bd s = _
  rw [execTwtProfile, this]
  rfl

/-- A profile and band whose codes are not reserved give the table's selection (R251). -/
theorem exec_twtProfile_of_selected {x : Selection} (h : profileSelection pr bd = some x) :
    exec (.twtProfile pr bd) s = .next (s.respond (.ok (.selection x))) := by
  change execTwtProfile pr bd s = _
  rw [execTwtProfile, h]
  rfl

theorem byte_eq_of_toNat {b : Byte} {k : Nat} (h : b.toNat = k) : b = BitVec.ofNat 8 k := by
  rw [← h, BitVec.ofNat_toNat, BitVec.setWidth_eq]

theorem lt_three_cases {b : Byte} (h : b.toNat < 3) : b = 0#8 ∨ b = 1#8 ∨ b = 2#8 := by
  obtain h | h | h : b.toNat = 0 ∨ b.toNat = 1 ∨ b.toNat = 2 := by omega
  · exact .inl (byte_eq_of_toNat h)
  · exact .inr (.inl (byte_eq_of_toNat h))
  · exact .inr (.inr (byte_eq_of_toNat h))

end

/-- Settles O59: the codes that are not reserved are three of each, and each pair's entry computes. -/
theorem profileSelectsTheTable : Obligations.ProfileSelectsTheTable := by
  intro pr bd s
  refine ⟨exec_twtProfile_of_reserved s, fun hp hb => ?_, fun hp hb => ?_, fun hp hb => ?_, fun hp hb => ?_⟩
  all_goals obtain rfl := byte_eq_of_toNat hp
  · obtain rfl | rfl | rfl := lt_three_cases hb <;> exact exec_twtProfile_of_selected s rfl
  · obtain rfl := byte_eq_of_toNat hb
    exact exec_twtProfile_of_selected s rfl
  · obtain hb | hb := hb
    · obtain rfl := byte_eq_of_toNat hb
      exact exec_twtProfile_of_selected s rfl
    · obtain rfl := byte_eq_of_toNat hb
      exact exec_twtProfile_of_selected s rfl
  · obtain rfl | rfl | rfl := lt_three_cases hb <;> exact exec_twtProfile_of_selected s rfl

end Sys2Proof.Machine
end
